-- ==== Sys2Proof/Word.lean ====
section
/-! DEFINITION. The two bit-string widths of Jackal 3.0: the 16-bit word (register, address, memory
location, instruction) and the 8-bit byte (00_scope.md R6). -/

namespace Sys2Proof

/-- A 16-bit word: register width, address width and memory-location width are all 16 (00_scope.md R6). -/
abbrev Word := BitVec 16

/-- An 8-bit byte: half a memory location (20_memory.md R43) or an 8-bit immediate (30_encoding.md R70). -/
abbrev Byte := BitVec 8

/-- A 4-bit field of the instruction word (30_encoding.md R61 to R67). -/
abbrev Nibble := BitVec 4

end Sys2Proof
end

