-- ==== Sys2Proof/Config.lean ====
section
/-! DEFINITION. The parameters that 00_scope.md R7 leaves to one implementation, each with the value
the spec decides as its default, and the one free value: what memory holds before anything is stored. -/

namespace Sys2Proof

/-- `CMP_MODE` (00_scope.md R7; 45_compare.md R150): how CMP reads "REG[SOURCE ONE] - REG[SOURCE TWO]". -/
inductive CmpMode where
  /-- The exact integer difference of the two signed values: the spec's default (decision D2). -/
  | exact
  /-- The 16-bit wrapped difference, whose sign bit is tested. -/
  | wrapped
  deriving DecidableEq, Repr

/-- `SLA_FILL` (00_scope.md R7; 42_shift.md R120): what enters at bit 0 on SLA. -/
inductive SlaFill where
  /-- Zeros: the spec's default (decision D3). -/
  | zero
  /-- Copies of the original bit 0, as the VHDL operator of that name does. -/
  | lsb
  deriving DecidableEq, Repr

/-- `UDO_MODE` (00_scope.md R7; 47_undefined.md R174): what the operand codes 1100 to 1111 mean. -/
inductive UdoMode where
  /-- No meaning: an instruction that reads or writes one is refused, the spec's default (decision D5). -/
  | refuse
  /-- Four further 16-bit registers with the same rules as R0 to R11. -/
  | gpr
  deriving DecidableEq, Repr

/-- The decided parameters that the spec keeps as configuration fields (00_scope.md R7;
92_eei_decisions.md D1, D2, D3, D5). One machine has one value of this record for ever. -/
structure Config where
  /-- `BR_OFFSET_SIGNED`: is the 8-bit branch OFFSET sign-extended (decision D1)? -/
  brOffsetSigned : Bool
  /-- `CMP_MODE` (decision D2). -/
  cmpMode : CmpMode
  /-- `SLA_FILL` (decision D3). -/
  slaFill : SlaFill
  /-- `UDO_MODE` (decision D5). -/
  udoMode : UdoMode
  deriving DecidableEq, Repr

/-- The value of every parameter in the column "this spec" of 00_scope.md R7. -/
def Config.decided : Config where
  brOffsetSigned := true
  cmpMode := .exact
  slaFill := .zero
  udoMode := .refuse

/-- `MEM_INIT` (00_scope.md R7; 20_memory.md R47): the word each location holds when execution starts.
A free value: the spec leaves it open, so it has no body and nothing can be proved of it. -/
opaque Config.memInit : Word → Word

end Sys2Proof
end

