-- ==== Sys2Proof/Syntax.lean ====
section
/-! DEFINITION. The instructions: one constructor of `Instr` for each row of spec/opcode_table.json
(30_encoding.md R71). Every bit of an instruction word that the row does not fix is a field here, the
ignored ones too, so that no encoding is lost. -/

namespace Sys2Proof

/-- A 4-bit register operand code (10_state.md R20, R22; 30_encoding.md R69): codes 0 to 11 name
R0 to R11, codes 12 to 15 name the undefined operands U0 to U3. -/
inductive RegCode where
  /-- `gpr n` is the general register R`n`. -/
  | gpr (n : Fin 12)
  /-- `udo n` is the undefined operand U`n`, operand code 12 + `n`. -/
  | udo (n : Fin 4)
  deriving DecidableEq, Repr

/-- One constructor for each row of spec/opcode_table.json, in the table's order. Operands stand in the
order of the word's fields from bit 11 down. -/
inductive Instr where
  /-- ADD, opcode 0000, format R3 (40_arithmetic.md R100). -/
  | add (d s1 s2 : RegCode)
  /-- SUB, opcode 0001, format R3 (40_arithmetic.md R101). -/
  | sub (d s1 s2 : RegCode)
  /-- AND, opcode 0010, format R3 (41_logical.md R110). -/
  | and (d s1 s2 : RegCode)
  /-- OR, opcode 0011, format R3 (41_logical.md R111). -/
  | or (d s1 s2 : RegCode)
  /-- NAND, opcode 0100, format R3 (41_logical.md R112). -/
  | nand (d s1 s2 : RegCode)
  /-- SLA, opcode 0101, format RS (42_shift.md R120). -/
  | sla (d s : RegCode) (n : Nibble)
  /-- SRA, opcode 0110, format RS (42_shift.md R121). -/
  | sra (d s : RegCode) (n : Nibble)
  /-- LD, opcode 0111 with MODE 0110, format M: data register, address register (43_load_store.md R130). -/
  | ld (d a : RegCode)
  /-- ST, opcode 0111 with MODE 1001, format M: data register, address register (43_load_store.md R131). -/
  | st (c a : RegCode)
  /-- NOP, opcode 0111 with MODE 0000; bits 11:4 are ignored (43_load_store.md R132). -/
  | nopMem0000 (ignored : Byte)
  /-- NOP, opcode 0111 with MODE 0001; bits 11:4 are ignored (43_load_store.md R132). -/
  | nopMem0001 (ignored : Byte)
  /-- NOP, opcode 0111 with MODE 0010; bits 11:4 are ignored (43_load_store.md R132). -/
  | nopMem0010 (ignored : Byte)
  /-- NOP, opcode 0111 with MODE 0011; bits 11:4 are ignored (43_load_store.md R132). -/
  | nopMem0011 (ignored : Byte)
  /-- NOP, opcode 0111 with MODE 0100; bits 11:4 are ignored (43_load_store.md R132). -/
  | nopMem0100 (ignored : Byte)
  /-- NOP, opcode 0111 with MODE 0101; bits 11:4 are ignored (43_load_store.md R132). -/
  | nopMem0101 (ignored : Byte)
  /-- NOP, opcode 0111 with MODE 0111; bits 11:4 are ignored (43_load_store.md R132). -/
  | nopMem0111 (ignored : Byte)
  /-- NOP, opcode 0111 with MODE 1000; bits 11:4 are ignored (43_load_store.md R132). -/
  | nopMem1000 (ignored : Byte)
  /-- NOP, opcode 0111 with MODE 1010; bits 11:4 are ignored (43_load_store.md R132). -/
  | nopMem1010 (ignored : Byte)
  /-- NOP, opcode 0111 with MODE 1011; bits 11:4 are ignored (43_load_store.md R132). -/
  | nopMem1011 (ignored : Byte)
  /-- NOP, opcode 0111 with MODE 1100; bits 11:4 are ignored (43_load_store.md R132). -/
  | nopMem1100 (ignored : Byte)
  /-- NOP, opcode 0111 with MODE 1101; bits 11:4 are ignored (43_load_store.md R132). -/
  | nopMem1101 (ignored : Byte)
  /-- NOP, opcode 0111 with MODE 1110; bits 11:4 are ignored (43_load_store.md R132). -/
  | nopMem1110 (ignored : Byte)
  /-- NOP, opcode 0111 with MODE 1111; bits 11:4 are ignored (43_load_store.md R132). -/
  | nopMem1111 (ignored : Byte)
  /-- LIL, opcode 1000, format I (44_immediate.md R140). -/
  | lil (d : RegCode) (imm : Byte)
  /-- LIH, opcode 1001, format I (44_immediate.md R141). -/
  | lih (d : RegCode) (imm : Byte)
  /-- CMP, opcode 1010, format C; bits 11:8 are ignored (45_compare.md R150). -/
  | cmp (unused : Nibble) (s1 s2 : RegCode)
  /-- BRN, opcode 1011 with MODE 0110, format B (46_branch.md R161). -/
  | brn (off : Byte)
  /-- BRZ, opcode 1011 with MODE 0111, format B (46_branch.md R162). -/
  | brz (off : Byte)
  /-- BRP, opcode 1011 with MODE 1000, format B (46_branch.md R163). -/
  | brp (off : Byte)
  /-- JMP, opcode 1011 with MODE 1001, format B (46_branch.md R164). -/
  | jmp (off : Byte)
  /-- NOP, opcode 1011 with MODE 0000; bits 7:0 are ignored (46_branch.md R165). -/
  | nopBr0000 (ignored : Byte)
  /-- NOP, opcode 1011 with MODE 0001; bits 7:0 are ignored (46_branch.md R165). -/
  | nopBr0001 (ignored : Byte)
  /-- NOP, opcode 1011 with MODE 0010; bits 7:0 are ignored (46_branch.md R165). -/
  | nopBr0010 (ignored : Byte)
  /-- NOP, opcode 1011 with MODE 0011; bits 7:0 are ignored (46_branch.md R165). -/
  | nopBr0011 (ignored : Byte)
  /-- NOP, opcode 1011 with MODE 0100; bits 7:0 are ignored (46_branch.md R165). -/
  | nopBr0100 (ignored : Byte)
  /-- NOP, opcode 1011 with MODE 0101; bits 7:0 are ignored (46_branch.md R165). -/
  | nopBr0101 (ignored : Byte)
  /-- NOP, opcode 1011 with MODE 1010; bits 7:0 are ignored (46_branch.md R165). -/
  | nopBr1010 (ignored : Byte)
  /-- NOP, opcode 1011 with MODE 1011; bits 7:0 are ignored (46_branch.md R165). -/
  | nopBr1011 (ignored : Byte)
  /-- NOP, opcode 1011 with MODE 1100; bits 7:0 are ignored (46_branch.md R165). -/
  | nopBr1100 (ignored : Byte)
  /-- NOP, opcode 1011 with MODE 1101; bits 7:0 are ignored (46_branch.md R165). -/
  | nopBr1101 (ignored : Byte)
  /-- NOP, opcode 1011 with MODE 1110; bits 7:0 are ignored (46_branch.md R165). -/
  | nopBr1110 (ignored : Byte)
  /-- NOP, opcode 1011 with MODE 1111; bits 7:0 are ignored (46_branch.md R165). -/
  | nopBr1111 (ignored : Byte)
  /-- UDI, opcode 1100, format U (47_undefined.md R170). -/
  | udi1100 (bits : BitVec 12)
  /-- UDI, opcode 1101, format U (47_undefined.md R171). -/
  | udi1101 (bits : BitVec 12)
  /-- UDI, opcode 1110, format U (47_undefined.md R172). -/
  | udi1110 (bits : BitVec 12)
  /-- UDI, opcode 1111, format U (47_undefined.md R173). -/
  | udi1111 (bits : BitVec 12)
  deriving DecidableEq, Repr

end Sys2Proof
end

