-- ==== Sys2Proof/WellFormed.lean ====
section
/-! DEFINITION. Which register fields an instruction uses, and which instructions the base ISA gives a
meaning (30_encoding.md R77; 47_undefined.md R174, R175). -/

namespace Sys2Proof

/-- Is this one of the twelve defined register operands R0 to R11 (10_state.md R20, R22)? -/
def RegCode.isGpr : RegCode → Bool
  | .gpr _ => true
  | .udo _ => false

/-- The register fields an instruction reads or writes, from bit 11 down: the column "fields checked" of
47_undefined.md R174. A field that is ignored, a count, a MODE or an immediate is not among them. -/
def Instr.regFields : Instr → List RegCode
  | .add d a b | .sub d a b | .and d a b | .or d a b | .nand d a b => [d, a, b]
  | .sla d a _ | .sra d a _ => [d, a]
  | .ld d a | .st d a => [d, a]
  | .nopMem0000 _ => []
  | .nopMem0001 _ => []
  | .nopMem0010 _ => []
  | .nopMem0011 _ => []
  | .nopMem0100 _ => []
  | .nopMem0101 _ => []
  | .nopMem0111 _ => []
  | .nopMem1000 _ => []
  | .nopMem1010 _ => []
  | .nopMem1011 _ => []
  | .nopMem1100 _ => []
  | .nopMem1101 _ => []
  | .nopMem1110 _ => []
  | .nopMem1111 _ => []
  | .lil d _ | .lih d _ => [d]
  | .cmp _ a b => [a, b]
  | .brn _ | .brz _ | .brp _ | .jmp _ => []
  | .nopBr0000 _ => []
  | .nopBr0001 _ => []
  | .nopBr0010 _ => []
  | .nopBr0011 _ => []
  | .nopBr0100 _ => []
  | .nopBr0101 _ => []
  | .nopBr1010 _ => []
  | .nopBr1011 _ => []
  | .nopBr1100 _ => []
  | .nopBr1101 _ => []
  | .nopBr1110 _ => []
  | .nopBr1111 _ => []
  | .udi1100 _ => []
  | .udi1101 _ => []
  | .udi1110 _ => []
  | .udi1111 _ => []

/-- Bits 15:12 of the instruction's word (30_encoding.md R61, R71). -/
def Instr.opcode : Instr → Nibble
  | .add _ _ _ => 0
  | .sub _ _ _ => 1
  | .and _ _ _ => 2
  | .or _ _ _ => 3
  | .nand _ _ _ => 4
  | .sla _ _ _ => 5
  | .sra _ _ _ => 6
  | .ld _ _ | .st _ _ => 7
  | .nopMem0000 _ => 7
  | .nopMem0001 _ => 7
  | .nopMem0010 _ => 7
  | .nopMem0011 _ => 7
  | .nopMem0100 _ => 7
  | .nopMem0101 _ => 7
  | .nopMem0111 _ => 7
  | .nopMem1000 _ => 7
  | .nopMem1010 _ => 7
  | .nopMem1011 _ => 7
  | .nopMem1100 _ => 7
  | .nopMem1101 _ => 7
  | .nopMem1110 _ => 7
  | .nopMem1111 _ => 7
  | .lil _ _ => 8
  | .lih _ _ => 9
  | .cmp _ _ _ => 10
  | .brn _ | .brz _ | .brp _ | .jmp _ => 11
  | .nopBr0000 _ => 11
  | .nopBr0001 _ => 11
  | .nopBr0010 _ => 11
  | .nopBr0011 _ => 11
  | .nopBr0100 _ => 11
  | .nopBr0101 _ => 11
  | .nopBr1010 _ => 11
  | .nopBr1011 _ => 11
  | .nopBr1100 _ => 11
  | .nopBr1101 _ => 11
  | .nopBr1110 _ => 11
  | .nopBr1111 _ => 11
  | .udi1100 _ => 12
  | .udi1101 _ => 13
  | .udi1110 _ => 14
  | .udi1111 _ => 15

/-- Is this word a UDI, one of the four opcodes with no defined meaning (30_encoding.md R74)? -/
def Instr.isUdi (i : Instr) : Bool := i.opcode.toNat ≥ 12

/-- Is this word one of the two NOP classes (30_encoding.md R75)? -/
def Instr.isNop : Instr → Bool
  | .add _ _ _ => false
  | .sub _ _ _ => false
  | .and _ _ _ => false
  | .or _ _ _ => false
  | .nand _ _ _ => false
  | .sla _ _ _ => false
  | .sra _ _ _ => false
  | .cmp _ _ _ => false
  | .ld _ _ | .st _ _ | .lil _ _ | .lih _ _ => false
  | .nopMem0000 _ => true
  | .nopMem0001 _ => true
  | .nopMem0010 _ => true
  | .nopMem0011 _ => true
  | .nopMem0100 _ => true
  | .nopMem0101 _ => true
  | .nopMem0111 _ => true
  | .nopMem1000 _ => true
  | .nopMem1010 _ => true
  | .nopMem1011 _ => true
  | .nopMem1100 _ => true
  | .nopMem1101 _ => true
  | .nopMem1110 _ => true
  | .nopMem1111 _ => true
  | .brn _ | .brz _ | .brp _ | .jmp _ => false
  | .nopBr0000 _ => true
  | .nopBr0001 _ => true
  | .nopBr0010 _ => true
  | .nopBr0011 _ => true
  | .nopBr0100 _ => true
  | .nopBr0101 _ => true
  | .nopBr1010 _ => true
  | .nopBr1011 _ => true
  | .nopBr1100 _ => true
  | .nopBr1101 _ => true
  | .nopBr1110 _ => true
  | .nopBr1111 _ => true
  | .udi1100 _ => false
  | .udi1101 _ => false
  | .udi1110 _ => false
  | .udi1111 _ => false

/-- An instruction is well formed when the base ISA gives it a meaning: its opcode is one of the twelve
defined ones and every register field it reads or writes names R0 to R11 (47_undefined.md R174, R175). -/
def Instr.wellFormed (i : Instr) : Bool := !i.isUdi && i.regFields.all RegCode.isGpr

end Sys2Proof
end

