-- ==== Sys2Proof/Decode.lean ====
section
/-! DEFINITION. Decoding (30_encoding.md R81), total on every 16-bit word; the bytes of a word
(20_memory.md R43); encoding and the assembler's canonical word (30_encoding.md R84); the offset the
assembler computes for a label (30_encoding.md R80). -/

namespace Sys2Proof

/-- The register operand a 4-bit field names (30_encoding.md R69). -/
def RegCode.ofBits (c : Nibble) : RegCode :=
  if h : c.toNat < 12 then .gpr ⟨c.toNat, h⟩
  else .udo ⟨c.toNat - 12, by have := c.isLt; omega⟩

/-- The 4-bit code of a register operand (10_state.md R20). -/
def RegCode.bits : RegCode → Nibble
  | .gpr n => BitVec.ofNat 4 n.val
  | .udo n => BitVec.ofNat 4 (12 + n.val)

/-- The 8-bit field that two neighbouring nibbles of the word make. -/
def pair (hi lo : Nibble) : Byte := BitVec.cast (by decide : 4 + 4 = 8) (hi ++ lo)

/-- The 12-bit field of format U (30_encoding.md R68). -/
def twelveBits (c a b : Nibble) : BitVec 12 :=
  BitVec.cast (by decide : 4 + 4 + 4 = 12) (c ++ a ++ b)

/-- Opcode 0111: MODE is bits 3:0 (30_encoding.md R72). The last line is the sixteenth value, 1111. -/
def decodeMem (c a b : Nibble) : Instr :=
  match b with
  | 0b0000#4 => .nopMem0000 (pair c a)
  | 0b0001#4 => .nopMem0001 (pair c a)
  | 0b0010#4 => .nopMem0010 (pair c a)
  | 0b0011#4 => .nopMem0011 (pair c a)
  | 0b0100#4 => .nopMem0100 (pair c a)
  | 0b0101#4 => .nopMem0101 (pair c a)
  | 0b0110#4 => .ld (.ofBits c) (.ofBits a)
  | 0b0111#4 => .nopMem0111 (pair c a)
  | 0b1000#4 => .nopMem1000 (pair c a)
  | 0b1001#4 => .st (.ofBits c) (.ofBits a)
  | 0b1010#4 => .nopMem1010 (pair c a)
  | 0b1011#4 => .nopMem1011 (pair c a)
  | 0b1100#4 => .nopMem1100 (pair c a)
  | 0b1101#4 => .nopMem1101 (pair c a)
  | 0b1110#4 => .nopMem1110 (pair c a)
  | _ => .nopMem1111 (pair c a)

/-- Opcode 1011: MODE is bits 11:8 (30_encoding.md R73). The last line is the sixteenth value, 1111. -/
def decodeBranch (c : Nibble) (imm : Byte) : Instr :=
  match c with
  | 0b0000#4 => .nopBr0000 imm
  | 0b0001#4 => .nopBr0001 imm
  | 0b0010#4 => .nopBr0010 imm
  | 0b0011#4 => .nopBr0011 imm
  | 0b0100#4 => .nopBr0100 imm
  | 0b0101#4 => .nopBr0101 imm
  | 0b0110#4 => .brn imm
  | 0b0111#4 => .brz imm
  | 0b1000#4 => .brp imm
  | 0b1001#4 => .jmp imm
  | 0b1010#4 => .nopBr1010 imm
  | 0b1011#4 => .nopBr1011 imm
  | 0b1100#4 => .nopBr1100 imm
  | 0b1101#4 => .nopBr1101 imm
  | 0b1110#4 => .nopBr1110 imm
  | _ => .nopBr1111 imm

/-- The decoding algorithm of 30_encoding.md R81 on the four nibbles of a word, bits 15:12, 11:8, 7:4 and
3:0. The last line is the sixteenth opcode, 1111. -/
def decodeFields (op c a b : Nibble) : Instr :=
  match op with
  | 0b0000#4 => .add (.ofBits c) (.ofBits a) (.ofBits b)
  | 0b0001#4 => .sub (.ofBits c) (.ofBits a) (.ofBits b)
  | 0b0010#4 => .and (.ofBits c) (.ofBits a) (.ofBits b)
  | 0b0011#4 => .or (.ofBits c) (.ofBits a) (.ofBits b)
  | 0b0100#4 => .nand (.ofBits c) (.ofBits a) (.ofBits b)
  | 0b0101#4 => .sla (.ofBits c) (.ofBits a) b
  | 0b0110#4 => .sra (.ofBits c) (.ofBits a) b
  | 0b0111#4 => decodeMem c a b
  | 0b1000#4 => .lil (.ofBits c) (pair a b)
  | 0b1001#4 => .lih (.ofBits c) (pair a b)
  | 0b1010#4 => .cmp c (.ofBits a) (.ofBits b)
  | 0b1011#4 => decodeBranch c (pair a b)
  | 0b1100#4 => .udi1100 (twelveBits c a b)
  | 0b1101#4 => .udi1101 (twelveBits c a b)
  | 0b1110#4 => .udi1110 (twelveBits c a b)
  | _ => .udi1111 (twelveBits c a b)

/-- Decoding is total: every 16-bit word is exactly one instruction (30_encoding.md R81). -/
def decodeWord (w : Word) : Instr :=
  decodeFields (w.extractLsb' 12 4) (w.extractLsb' 8 4) (w.extractLsb' 4 4) (w.extractLsb' 0 4)

/-- The low byte of a word, bits 7:0 (20_memory.md R43). -/
def loByte (w : Word) : Byte := w.extractLsb' 0 8

/-- The high byte of a word, bits 15:8 (20_memory.md R43). -/
def hiByte (w : Word) : Byte := w.extractLsb' 8 8

/-- The word with these two bytes. -/
def wordOfBytes (hi lo : Byte) : Word := BitVec.cast (by decide : 8 + 8 = 16) (hi ++ lo)

/-- Why a byte string holds no instruction. Every whole word does (30_encoding.md R81). -/
inductive DecodeError where
  /-- Fewer than two bytes: an instruction is exactly one 16-bit word (30_encoding.md R60). -/
  | truncated
  deriving DecidableEq, Repr

/-- Decoding of a byte string, low byte of each word first (20_memory.md R43, decision D17): the first
instruction and the bytes after it. -/
def decodeBytes : List Byte → Except DecodeError (Instr × List Byte)
  | lo :: hi :: rest => .ok (decodeWord (wordOfBytes hi lo), rest)
  | _ => .error .truncated

/-- The instruction that a row of spec/opcode_table.json, given as a number of `nbits` bits, decodes to:
its two bytes are laid out low byte first and given to `decodeBytes`. -/
def decodeTableWord (nbits w : Nat) : Option Instr :=
  let v : Word := BitVec.ofNat 16 (w % 2 ^ nbits)
  match decodeBytes [loByte v, hiByte v] with
  | .ok (i, _) => some i
  | .error _ => none

/-- Format R3, and every other format seen as four nibbles (30_encoding.md R62, R84). -/
def packNibbles (op c a b : Nibble) : Word :=
  BitVec.cast (by decide : 4 + 4 + 4 + 4 = 16) (op ++ c ++ a ++ b)

/-- The formats whose bits 7:0 are one field (30_encoding.md R65, R67, R84). -/
def packByte (op c : Nibble) (imm : Byte) : Word :=
  BitVec.cast (by decide : 4 + 4 + 8 = 16) (op ++ c ++ imm)

/-- The format whose bits 11:4 are ignored: the NOP modes of opcode 0111 (30_encoding.md R64, R75). -/
def packMem (ignored : Byte) (mode : Nibble) : Word :=
  BitVec.cast (by decide : 4 + 8 + 4 = 16) (0b0111#4 ++ ignored ++ mode)

/-- Format U: the opcode and twelve undefined bits (30_encoding.md R68). -/
def packUdi (op : Nibble) (bits : BitVec 12) : Word :=
  BitVec.cast (by decide : 4 + 12 = 16) (op ++ bits)

/-- The instruction's word, its ignored bits as they stand in it (30_encoding.md R62 to R68, R84). -/
def encode : Instr → Word
  | .add d a b => packNibbles 0b0000#4 d.bits a.bits b.bits
  | .sub d a b => packNibbles 0b0001#4 d.bits a.bits b.bits
  | .and d a b => packNibbles 0b0010#4 d.bits a.bits b.bits
  | .or d a b => packNibbles 0b0011#4 d.bits a.bits b.bits
  | .nand d a b => packNibbles 0b0100#4 d.bits a.bits b.bits
  | .sla d a n => packNibbles 0b0101#4 d.bits a.bits n
  | .sra d a n => packNibbles 0b0110#4 d.bits a.bits n
  | .ld d a => packNibbles 0b0111#4 d.bits a.bits 0b0110#4
  | .st c a => packNibbles 0b0111#4 c.bits a.bits 0b1001#4
  | .nopMem0000 x => packMem x 0b0000#4
  | .nopMem0001 x => packMem x 0b0001#4
  | .nopMem0010 x => packMem x 0b0010#4
  | .nopMem0011 x => packMem x 0b0011#4
  | .nopMem0100 x => packMem x 0b0100#4
  | .nopMem0101 x => packMem x 0b0101#4
  | .nopMem0111 x => packMem x 0b0111#4
  | .nopMem1000 x => packMem x 0b1000#4
  | .nopMem1010 x => packMem x 0b1010#4
  | .nopMem1011 x => packMem x 0b1011#4
  | .nopMem1100 x => packMem x 0b1100#4
  | .nopMem1101 x => packMem x 0b1101#4
  | .nopMem1110 x => packMem x 0b1110#4
  | .nopMem1111 x => packMem x 0b1111#4
  | .lil d imm => packByte 0b1000#4 d.bits imm
  | .lih d imm => packByte 0b1001#4 d.bits imm
  | .cmp u a b => packNibbles 0b1010#4 u a.bits b.bits
  | .brn off => packByte 0b1011#4 0b0110#4 off
  | .brz off => packByte 0b1011#4 0b0111#4 off
  | .brp off => packByte 0b1011#4 0b1000#4 off
  | .jmp off => packByte 0b1011#4 0b1001#4 off
  | .nopBr0000 x => packByte 0b1011#4 0b0000#4 x
  | .nopBr0001 x => packByte 0b1011#4 0b0001#4 x
  | .nopBr0010 x => packByte 0b1011#4 0b0010#4 x
  | .nopBr0011 x => packByte 0b1011#4 0b0011#4 x
  | .nopBr0100 x => packByte 0b1011#4 0b0100#4 x
  | .nopBr0101 x => packByte 0b1011#4 0b0101#4 x
  | .nopBr1010 x => packByte 0b1011#4 0b1010#4 x
  | .nopBr1011 x => packByte 0b1011#4 0b1011#4 x
  | .nopBr1100 x => packByte 0b1011#4 0b1100#4 x
  | .nopBr1101 x => packByte 0b1011#4 0b1101#4 x
  | .nopBr1110 x => packByte 0b1011#4 0b1110#4 x
  | .nopBr1111 x => packByte 0b1011#4 0b1111#4 x
  | .udi1100 bits => packUdi 0b1100#4 bits
  | .udi1101 bits => packUdi 0b1101#4 bits
  | .udi1110 bits => packUdi 0b1110#4 bits
  | .udi1111 bits => packUdi 0b1111#4 bits

/-- The instruction the assembler writes for this one: bits 11:8 of CMP are 0000 (30_encoding.md R76) and
every NOP is 0x7000 (30_encoding.md R75). -/
def Instr.canonical (i : Instr) : Instr :=
  match i with
  | .cmp _ a b => .cmp 0 a b
  | _ => if i.isNop then .nopMem0000 0 else i

/-- The assembler's word for an instruction (30_encoding.md R84). -/
def assemble (i : Instr) : Word := encode i.canonical

/-- The OFFSET the assembler computes for a branch at address `b` to a label at address `l`: `l - (b + 1)`
modulo 256, if that difference is in -128..+127 (30_encoding.md R80). -/
def labelOffset (b l : Word) : Option Byte :=
  let diff : Int := (l.toNat : Int) - ((b.toNat : Int) + 1)
  if -128 ≤ diff ∧ diff ≤ 127 then some (BitVec.ofInt 8 diff) else none

end Sys2Proof
end

