-- ==== Sys2Proof/Machine/State.lean ====
section
/-! DEFINITION. The architectural state of 10_state.md R30, as plain data; the ways a step can stop; and
the state after reset (10_state.md R31). -/

namespace Sys2Proof.Machine

open Sys2Proof

/-- The three 1-bit condition registers (10_state.md R27). -/
structure CondRegs where
  /-- CRN, negative. -/
  crn : Bool
  /-- CRZ, zero. -/
  crz : Bool
  /-- CRP, positive. -/
  crp : Bool
  deriving DecidableEq, Repr

/-- Memory: (byte address, byte) pairs, byte addresses strictly rising. Byte `2a` is the low byte of
location `a` and byte `2a + 1` its high byte (20_memory.md R43, decision D17). A byte not listed has not
been placed or stored, and holds what `Config.memInit` gives it (20_memory.md R47). -/
abbrev Memory := List Host.Cell

/-- The complete state (10_state.md R30), and the parameter record of the machine. -/
structure State where
  /-- R0 to R11 (10_state.md R20). -/
  regs : Vector Word 12
  /-- The program counter, a word address (10_state.md R23, R24). -/
  pc : Word
  /-- CRN, CRZ and CRP (10_state.md R27). -/
  cr : CondRegs
  /-- The 65,536 locations of 16 bits (20_memory.md R40). -/
  mem : Memory
  /-- U0 to U3: registers under `UDO_MODE = gpr` only (10_state.md R30; 47_undefined.md R174). -/
  udo : Vector Word 4
  /-- The MODEL's own field: the parameters of 00_scope.md R7, which no step changes (log 25). -/
  cfg : Config
  deriving DecidableEq, Repr

/-- Machine faults: none. The hardware raises no exception and every address is valid, so nothing in
the ISA maps to a fault (60_exceptions.md R180; 20_memory.md R45, R46). -/
inductive Fault where
  deriving DecidableEq, Repr

/-- The model's refusals (00_scope.md R9): no event of the hardware. -/
inductive Refusal where
  /-- Raised by `exec` alone, for an instruction that has no meaning in the model yet: safe. No arm does. -/
  | notModelled (mnemonic : String)
  /-- Raised by the meanings of the four UDI opcodes, to which the base ISA gives no meaning
  (47_undefined.md R170 to R173): safe, nothing follows about a core that defines them. -/
  | undefinedInstruction (opcode : Nibble)
  /-- Raised by `withOperands`, before any effect, for a register field that the instruction reads or
  writes and that holds a code in 12..15 while `UDO_MODE = refuse` (47_undefined.md R174): safe. -/
  | undefinedOperand (code : Nibble)
  deriving DecidableEq, Repr

/-- What a step of this machine answers. -/
abbrev Outcome := Host.Outcome State Fault Refusal

/-- A state right after reset: pc and registers 0x0000 (10_state.md R31). What the spec leaves open there
is an argument: the parameters, `CR_RESET` (decision D10) and `MEM_INIT` (decision D11). -/
def State.resetWith (cfg : Config) (cr : CondRegs) (mem : Memory) : State where
  regs := Vector.replicate 12 0
  pc := 0
  cr := cr
  mem := mem
  udo := Vector.replicate 4 0
  cfg := cfg

/-- The machine right after reset, with the decided parameters and nothing placed in memory.
DESIGN CHOICE, unsafe (log 3): CRN, CRZ and CRP, to which the spec gives no reset value, are 0. -/
def State.reset : State :=
  .resetWith .decided ⟨false, false, false⟩ []

end Sys2Proof.Machine
end

