-- ==== Sys2Proof/Machine/Ops.lean ====
section
/-! DEFINITION. The named operations over memory, registers and the pc, and the one place where an
undefined operand is refused. The machine has no exception to take or to return from
(60_exceptions.md R180, R184, R185). -/

namespace Sys2Proof.Machine

open Sys2Proof

/-! ## Memory (20_memory.md) -/

/-- How many bytes the 65,536 locations are: 128 KB (20_memory.md R41). -/
def memBytes : Nat := 131072

/-- The byte listed at a byte address, if one is. -/
def Memory.find : Memory → Nat → Option Byte
  | [], _ => none
  | (k, b) :: m, a => if k = a then some b else Memory.find m a

/-- List a byte at a byte address, in place of the one listed there. -/
def Memory.put : Memory → Nat → Byte → Memory
  | [], a, v => [(a, v)]
  | (k, b) :: m, a, v =>
    if a < k then (a, v) :: (k, b) :: m
    else if a = k then (a, v) :: m
    else (k, b) :: Memory.put m a v

/-- The canonical form: byte addresses strictly rising and inside the 128 KB. A byte that is not listed
has no value of the list's own, so no listed byte can repeat it, and equal lists are equal memories. -/
abbrev Memory.wf (m : Memory) : Prop :=
  m.Pairwise (fun p q => p.1 < q.1) ∧ ∀ c ∈ m, c.1 < memBytes

/-- The byte that `MEM_INIT` gives a byte address (20_memory.md R43, R47): what an unlisted byte reads
as. -/
def initialByte (k : Nat) : Byte :=
  let w := Config.memInit (BitVec.ofNat 16 (k / 2))
  if k % 2 = 0 then loByte w else hiByte w

/-- The byte at a byte address: the last one stored, or the initial one (20_memory.md R49). -/
def Memory.readByte (m : Memory) (k : Nat) : Byte :=
  (Memory.find m k).getD (initialByte k)

/-- The byte address of the low byte of a location (20_memory.md R43, decision D17). -/
def loAddr (a : Word) : Nat := 2 * a.toNat

/-- The byte address of the high byte of a location (20_memory.md R43, decision D17). -/
def hiAddr (a : Word) : Nat := 2 * a.toNat + 1

/-- `MemRead(a, 1)`: the whole 16-bit location (20_memory.md R44). -/
def Memory.readWord (m : Memory) (a : Word) : Word :=
  wordOfBytes (Memory.readByte m (hiAddr a)) (Memory.readByte m (loAddr a))

/-- `MemWrite(a, 1, v)`: the whole 16-bit location (20_memory.md R44). -/
def Memory.writeWord (m : Memory) (a v : Word) : Memory :=
  Memory.put (Memory.put m (loAddr a) (loByte v)) (hiAddr a) (hiByte v)

/-- Words placed one a location, in increasing address order (70_reset_and_hazards.md R201). -/
def Memory.loadWords : Memory → Word → List Word → Memory
  | m, _, [] => m
  | m, a, w :: ws => Memory.loadWords (Memory.writeWord m a w) (a + 1) ws

/-! ## Registers (10_state.md) -/

/-- `x[i]` (00_scope.md R9): R0 to R11, or U0 to U3 where those are registers (47_undefined.md R174). -/
def State.readReg (s : State) : RegCode → Word
  | .gpr n => s.regs[n]
  | .udo n => s.udo[n]

/-- R0 to R11 after `x[i] <- v`. -/
def writeGpr (regs : Vector Word 12) (r : RegCode) (v : Word) : Vector Word 12 :=
  match r with
  | .gpr n => regs.set n v
  | .udo _ => regs

/-- U0 to U3 after `x[i] <- v`. -/
def writeUdo (udo : Vector Word 4) (r : RegCode) (v : Word) : Vector Word 4 :=
  match r with
  | .gpr _ => udo
  | .udo n => udo.set n v

/-- `x[i] <- v` (00_scope.md R9): all 16 bits of one register, no other. -/
def State.writeReg (s : State) (r : RegCode) (v : Word) : State :=
  { s with regs := writeGpr s.regs r v, udo := writeUdo s.udo r v }

/-- All three condition registers written at once (10_state.md R27). -/
def State.setCond (s : State) (cr : CondRegs) : State := { s with cr := cr }

/-- `pc <- t`. -/
def State.setPc (s : State) (t : Word) : State := { s with pc := t }

/-- The memory after an access. -/
def State.setMem (s : State) (m : Memory) : State := { s with mem := m }

/-- `pc <- pc +16 1` (10_state.md R25, R26). -/
def State.advance (s : State) : State := s.setPc (s.pc + 1)

/-- The word at the pc: instruction fetch (20_memory.md R45). -/
def State.fetchWord (s : State) : Word := Memory.readWord s.mem s.pc

/-! ## Undefined operands (47_undefined.md R174) -/

/-- Does this machine give the operand a meaning? -/
def RegCode.usable (m : UdoMode) (r : RegCode) : Bool :=
  match m with
  | .gpr => true
  | .refuse => r.isGpr

/-- The first operand, from bit 11 down, to which this machine gives no meaning (log 24). -/
def firstUnusable (m : UdoMode) : List RegCode → Option RegCode
  | [] => none
  | r :: rs => if RegCode.usable m r then firstUnusable m rs else some r

/-- An instruction over these register fields: refused before any effect if one has no meaning
(47_undefined.md R174; 60_exceptions.md R183), and otherwise its effect `f`. -/
def withOperands (rs : List RegCode) (s : State) (f : State → State) : Outcome :=
  match firstUnusable s.cfg.udoMode rs with
  | some r => .refused (.undefinedOperand r.bits)
  | none => .next (f s)

end Sys2Proof.Machine
end

