-- ==== Sys2Proof/Machine/Operands.lean ====
section
/-! DEFINITION. The operand forms: the effective address of LD and ST (20_memory.md R54), the two ways an
8-bit immediate enters a register (44_immediate.md), the shifts by a 4-bit count (42_shift.md) and the
branch target (46_branch.md R160). -/

namespace Sys2Proof.Machine

open Sys2Proof

/-- The effective address of LD and ST: the whole register, nothing added (20_memory.md R54). -/
def effectiveAddress (s : State) (a : RegCode) : Word := s.readReg a

/-- LIL's result: bits 15:8 kept, bits 7:0 the immediate (44_immediate.md R140). -/
def setLow (old : Word) (imm : Byte) : Word := wordOfBytes (hiByte old) imm

/-- LIH's result: bits 15:8 the immediate, bits 7:0 kept (44_immediate.md R141). -/
def setHigh (old : Word) (imm : Byte) : Word := wordOfBytes imm (loByte old)

/-- `shl(v, n)` (00_scope.md R8, R9). -/
def shl (v : Word) (n : Nibble) : Word := v <<< n.toNat

/-- `asr(v, n)`: bit 15 is copied into every vacated position (00_scope.md R9; 42_shift.md R121). -/
def asr (v : Word) (n : Nibble) : Word := v.sshiftRight n.toNat

/-- The n low bits set: the positions a left shift by n vacates. -/
def lowOnes (n : Nibble) : Word := (1#16 <<< n.toNat) - 1#16

/-- SLA's result under each reading of what enters at bit 0 (42_shift.md R120, decision D3). -/
def shiftLeftArith (fill : SlaFill) (v : Word) (n : Nibble) : Word :=
  match fill with
  | .zero => shl v n
  | .lsb => if v.getLsbD 0 then shl v n ||| lowOnes n else shl v n

/-- The branch OFFSET as 16 bits, under each reading of its sign (30_encoding.md R70(c), decision D1). -/
def extendOffset (signed : Bool) (off : Byte) : Word :=
  if signed then off.signExtend 16 else off.zeroExtend 16

/-- `pc +16 1 +16 off`: relative to the incremented pc, modulo 2^16 (46_branch.md R160, R167). -/
def branchTarget (signed : Bool) (pc : Word) (off : Byte) : Word := pc + 1 + extendOffset signed off

end Sys2Proof.Machine
end

