-- ==== Sys2Proof/Machine/Flags.lean ====
section
/-! DEFINITION. The condition registers that CMP computes (45_compare.md R150): the machine's only flags.
No other instruction writes one (10_state.md R27). -/

namespace Sys2Proof.Machine

open Sys2Proof

/-- CRN, CRZ, CRP of `a` compared with `b`: SOURCE ONE minus SOURCE TWO against 0, under each reading of
the difference (45_compare.md R150, decision D2). -/
def compareFlags (mode : CmpMode) (a b : Word) : CondRegs :=
  match mode with
  | .exact =>
    let diff : Int := a.toInt - b.toInt
    { crn := diff < 0, crz := diff = 0, crp := diff > 0 }
  | .wrapped =>
    let r := a - b
    { crn := r.msb, crz := r = 0, crp := !r.msb && r ≠ 0 }

end Sys2Proof.Machine
end

