-- ==== Sys2Proof/Machine/Arithmetic.lean ====
section
/-! DEFINITION. ADD and SUB (40_arithmetic.md), and the shape every three-register instruction shares. -/

namespace Sys2Proof.Machine

open Sys2Proof

/-- Format R3 (30_encoding.md R62): `x[d] <- f(x[s1], x[s2])`, both read first (10_state.md R28), and the
pc advances (10_state.md R25). -/
def binaryOp (f : Word → Word → Word) (d s1 s2 : RegCode) (s : State) : Outcome :=
  withOperands [d, s1, s2] s fun s =>
    (s.writeReg d (f (s.readReg s1) (s.readReg s2))).advance

/-- ADD: the sum modulo 2^16 (40_arithmetic.md R100, R102). -/
def execAdd (d s1 s2 : RegCode) (s : State) : Outcome := binaryOp (fun a b => a + b) d s1 s2 s

/-- SUB: SOURCE ONE minus SOURCE TWO modulo 2^16 (40_arithmetic.md R101, R102). -/
def execSub (d s1 s2 : RegCode) (s : State) : Outcome := binaryOp (fun a b => a - b) d s1 s2 s

end Sys2Proof.Machine
end

