-- ==== Sys2Proof/Machine/LoadStore.lean ====
section
/-! DEFINITION. LD, ST and the NOP modes of opcode 0111 (43_load_store.md). -/

namespace Sys2Proof.Machine

open Sys2Proof

/-- No operation: only the pc advances (43_load_store.md R132; 46_branch.md R165). -/
def nop (s : State) : Outcome := .next s.advance

/-- LD: the whole location at the address in register `a`, into register `d` (43_load_store.md R130). -/
def execLd (d a : RegCode) (s : State) : Outcome :=
  withOperands [d, a] s fun s =>
    (s.writeReg d (Memory.readWord s.mem (effectiveAddress s a))).advance

/-- ST: register `c`, into the whole location at the address in register `a` (43_load_store.md R131). -/
def execSt (c a : RegCode) (s : State) : Outcome :=
  withOperands [c, a] s fun s =>
    (s.setMem (Memory.writeWord s.mem (effectiveAddress s a) (s.readReg c))).advance

/-- NOP, opcode 0111 with MODE 0000 (43_load_store.md R132): bits 11:4 are ignored. -/
def execNopMem0000 (_ignored : Byte) (s : State) : Outcome := nop s

/-- NOP, opcode 0111 with MODE 0001 (43_load_store.md R132): bits 11:4 are ignored. -/
def execNopMem0001 (_ignored : Byte) (s : State) : Outcome := nop s

/-- NOP, opcode 0111 with MODE 0010 (43_load_store.md R132): bits 11:4 are ignored. -/
def execNopMem0010 (_ignored : Byte) (s : State) : Outcome := nop s

/-- NOP, opcode 0111 with MODE 0011 (43_load_store.md R132): bits 11:4 are ignored. -/
def execNopMem0011 (_ignored : Byte) (s : State) : Outcome := nop s

/-- NOP, opcode 0111 with MODE 0100 (43_load_store.md R132): bits 11:4 are ignored. -/
def execNopMem0100 (_ignored : Byte) (s : State) : Outcome := nop s

/-- NOP, opcode 0111 with MODE 0101 (43_load_store.md R132): bits 11:4 are ignored. -/
def execNopMem0101 (_ignored : Byte) (s : State) : Outcome := nop s

/-- NOP, opcode 0111 with MODE 0111 (43_load_store.md R132): bits 11:4 are ignored. -/
def execNopMem0111 (_ignored : Byte) (s : State) : Outcome := nop s

/-- NOP, opcode 0111 with MODE 1000 (43_load_store.md R132): bits 11:4 are ignored. -/
def execNopMem1000 (_ignored : Byte) (s : State) : Outcome := nop s

/-- NOP, opcode 0111 with MODE 1010 (43_load_store.md R132): bits 11:4 are ignored. -/
def execNopMem1010 (_ignored : Byte) (s : State) : Outcome := nop s

/-- NOP, opcode 0111 with MODE 1011 (43_load_store.md R132): bits 11:4 are ignored. -/
def execNopMem1011 (_ignored : Byte) (s : State) : Outcome := nop s

/-- NOP, opcode 0111 with MODE 1100 (43_load_store.md R132): bits 11:4 are ignored. -/
def execNopMem1100 (_ignored : Byte) (s : State) : Outcome := nop s

/-- NOP, opcode 0111 with MODE 1101 (43_load_store.md R132): bits 11:4 are ignored. -/
def execNopMem1101 (_ignored : Byte) (s : State) : Outcome := nop s

/-- NOP, opcode 0111 with MODE 1110 (43_load_store.md R132): bits 11:4 are ignored. -/
def execNopMem1110 (_ignored : Byte) (s : State) : Outcome := nop s

/-- NOP, opcode 0111 with MODE 1111 (43_load_store.md R132): bits 11:4 are ignored. -/
def execNopMem1111 (_ignored : Byte) (s : State) : Outcome := nop s

end Sys2Proof.Machine
end

