-- ==== Sys2Proof/Machine/Branch.lean ====
section
/-! DEFINITION. BRN, BRZ, BRP, JMP and the NOP modes of opcode 1011 (46_branch.md). -/

namespace Sys2Proof.Machine

open Sys2Proof

/-- The family's operation (46_branch.md R160), with the machine's `BR_OFFSET_SIGNED`: the target if
taken, and otherwise the next location. Nothing else changes. -/
def branchIf (taken : Bool) (off : Byte) (s : State) : Outcome :=
  .next (s.setPc (if taken then branchTarget s.cfg.brOffsetSigned s.pc off else s.pc + 1))

/-- BRN: taken if CRN is 1 (46_branch.md R161). -/
def execBrn (off : Byte) (s : State) : Outcome := branchIf s.cr.crn off s

/-- BRZ: taken if CRZ is 1 (46_branch.md R162). -/
def execBrz (off : Byte) (s : State) : Outcome := branchIf s.cr.crz off s

/-- BRP: taken if CRP is 1 (46_branch.md R163). -/
def execBrp (off : Byte) (s : State) : Outcome := branchIf s.cr.crp off s

/-- JMP: always taken (46_branch.md R164). -/
def execJmp (off : Byte) (s : State) : Outcome := branchIf true off s

/-- NOP, opcode 1011 with MODE 0000 (46_branch.md R165): bits 7:0 are ignored. -/
def execNopBr0000 (_ignored : Byte) (s : State) : Outcome := nop s

/-- NOP, opcode 1011 with MODE 0001 (46_branch.md R165): bits 7:0 are ignored. -/
def execNopBr0001 (_ignored : Byte) (s : State) : Outcome := nop s

/-- NOP, opcode 1011 with MODE 0010 (46_branch.md R165): bits 7:0 are ignored. -/
def execNopBr0010 (_ignored : Byte) (s : State) : Outcome := nop s

/-- NOP, opcode 1011 with MODE 0011 (46_branch.md R165): bits 7:0 are ignored. -/
def execNopBr0011 (_ignored : Byte) (s : State) : Outcome := nop s

/-- NOP, opcode 1011 with MODE 0100 (46_branch.md R165): bits 7:0 are ignored. -/
def execNopBr0100 (_ignored : Byte) (s : State) : Outcome := nop s

/-- NOP, opcode 1011 with MODE 0101 (46_branch.md R165): bits 7:0 are ignored. -/
def execNopBr0101 (_ignored : Byte) (s : State) : Outcome := nop s

/-- NOP, opcode 1011 with MODE 1010 (46_branch.md R165): bits 7:0 are ignored. -/
def execNopBr1010 (_ignored : Byte) (s : State) : Outcome := nop s

/-- NOP, opcode 1011 with MODE 1011 (46_branch.md R165): bits 7:0 are ignored. -/
def execNopBr1011 (_ignored : Byte) (s : State) : Outcome := nop s

/-- NOP, opcode 1011 with MODE 1100 (46_branch.md R165): bits 7:0 are ignored. -/
def execNopBr1100 (_ignored : Byte) (s : State) : Outcome := nop s

/-- NOP, opcode 1011 with MODE 1101 (46_branch.md R165): bits 7:0 are ignored. -/
def execNopBr1101 (_ignored : Byte) (s : State) : Outcome := nop s

/-- NOP, opcode 1011 with MODE 1110 (46_branch.md R165): bits 7:0 are ignored. -/
def execNopBr1110 (_ignored : Byte) (s : State) : Outcome := nop s

/-- NOP, opcode 1011 with MODE 1111 (46_branch.md R165): bits 7:0 are ignored. -/
def execNopBr1111 (_ignored : Byte) (s : State) : Outcome := nop s

end Sys2Proof.Machine
end

