-- ==== Sys2Proof/Machine/Compare.lean ====
section
/-! DEFINITION. CMP (45_compare.md). -/

namespace Sys2Proof.Machine

open Sys2Proof

/-- CMP (45_compare.md R150), with the machine's `CMP_MODE`: all three condition registers are written and
nothing else but the pc. Bits 11:8 of the word are ignored (30_encoding.md R76). -/
def execCmp (_unused : Nibble) (s1 s2 : RegCode) (s : State) : Outcome :=
  withOperands [s1, s2] s fun s =>
    (s.setCond (compareFlags s.cfg.cmpMode (s.readReg s1) (s.readReg s2))).advance

end Sys2Proof.Machine
end

