-- ==== Sys2Proof/Machine/Immediate.lean ====
section
/-! DEFINITION. LIL and LIH: one byte of a register, the other kept (44_immediate.md). -/

namespace Sys2Proof.Machine

open Sys2Proof

/-- Format I (30_encoding.md R65): `x[d] <- f(old x[d], imm)`, and the pc advances (10_state.md R25). -/
def immediateOp (f : Word → Byte → Word) (d : RegCode) (imm : Byte) (s : State) : Outcome :=
  withOperands [d] s fun s => (s.writeReg d (f (s.readReg d) imm)).advance

/-- LIL (44_immediate.md R140). -/
def execLil (d : RegCode) (imm : Byte) (s : State) : Outcome := immediateOp setLow d imm s

/-- LIH (44_immediate.md R141). -/
def execLih (d : RegCode) (imm : Byte) (s : State) : Outcome := immediateOp setHigh d imm s

end Sys2Proof.Machine
end

