-- ==== Sys2Proof/Machine/Logical.lean ====
section
/-! DEFINITION. AND, OR and NAND, bitwise over all 16 bits (41_logical.md). -/

namespace Sys2Proof.Machine

open Sys2Proof

/-- AND (41_logical.md R110). -/
def execAnd (d s1 s2 : RegCode) (s : State) : Outcome := binaryOp (fun a b => a &&& b) d s1 s2 s

/-- OR (41_logical.md R111). -/
def execOr (d s1 s2 : RegCode) (s : State) : Outcome := binaryOp (fun a b => a ||| b) d s1 s2 s

/-- NAND (41_logical.md R112). -/
def execNand (d s1 s2 : RegCode) (s : State) : Outcome := binaryOp (fun a b => ~~~(a &&& b)) d s1 s2 s

end Sys2Proof.Machine
end

