-- ==== Sys2Proof/Machine/Shift.lean ====
section
/-! DEFINITION. SLA and SRA, by an immediate count of 0 to 15 (42_shift.md). -/

namespace Sys2Proof.Machine

open Sys2Proof

/-- Format RS (30_encoding.md R63): `x[d] <- f(x[s], n)`, and the pc advances (10_state.md R25). -/
def shiftOp (f : Word → Nibble → Word) (d a : RegCode) (n : Nibble) (s : State) : Outcome :=
  withOperands [d, a] s fun s => (s.writeReg d (f (s.readReg a) n)).advance

/-- SLA (42_shift.md R120), with the machine's `SLA_FILL`. -/
def execSla (d a : RegCode) (n : Nibble) (s : State) : Outcome :=
  shiftOp (shiftLeftArith s.cfg.slaFill) d a n s

/-- SRA (42_shift.md R121). -/
def execSra (d a : RegCode) (n : Nibble) (s : State) : Outcome := shiftOp asr d a n s

end Sys2Proof.Machine
end

