-- ==== Sys2Proof/Machine/Undefined.lean ====
section
/-! DEFINITION. The four undefined instructions (47_undefined.md). -/

namespace Sys2Proof.Machine

open Sys2Proof

/-- The base ISA gives the word no meaning: not a NOP, not a trap, not a halt (47_undefined.md R170). -/
def refuseUdi (opcode : Nibble) : Outcome := .refused (.undefinedInstruction opcode)

/-- UDI, opcode 1100 (47_undefined.md R170). -/
def execUdi1100 (_bits : BitVec 12) (_s : State) : Outcome := refuseUdi 0b1100#4

/-- UDI, opcode 1101 (47_undefined.md R171). -/
def execUdi1101 (_bits : BitVec 12) (_s : State) : Outcome := refuseUdi 0b1101#4

/-- UDI, opcode 1110 (47_undefined.md R172). -/
def execUdi1110 (_bits : BitVec 12) (_s : State) : Outcome := refuseUdi 0b1110#4

/-- UDI, opcode 1111 (47_undefined.md R173). -/
def execUdi1111 (_bits : BitVec 12) (_s : State) : Outcome := refuseUdi 0b1111#4

end Sys2Proof.Machine
end

