-- ==== Sys2Proof/Machine/Dispatch.lean ====
section
/-! DEFINITION. One arm for each constructor of Instr, in the order of spec/opcode_table.json. -/

namespace Sys2Proof.Machine

open Sys2Proof

def exec (i : Instr) (s : State) : Host.Outcome State Fault Refusal :=
  match i with
  | .add d s1 s2 => Sys2Proof.Machine.execAdd d s1 s2 s
  | .sub d s1 s2 => Sys2Proof.Machine.execSub d s1 s2 s
  | .and d s1 s2 => Sys2Proof.Machine.execAnd d s1 s2 s
  | .or d s1 s2 => Sys2Proof.Machine.execOr d s1 s2 s
  | .nand d s1 s2 => Sys2Proof.Machine.execNand d s1 s2 s
  | .sla d a n => Sys2Proof.Machine.execSla d a n s
  | .sra d a n => Sys2Proof.Machine.execSra d a n s
  | .ld d a => Sys2Proof.Machine.execLd d a s
  | .st c a => Sys2Proof.Machine.execSt c a s
  | .nopMem0000 x => Sys2Proof.Machine.execNopMem0000 x s
  | .nopMem0001 x => Sys2Proof.Machine.execNopMem0001 x s
  | .nopMem0010 x => Sys2Proof.Machine.execNopMem0010 x s
  | .nopMem0011 x => Sys2Proof.Machine.execNopMem0011 x s
  | .nopMem0100 x => Sys2Proof.Machine.execNopMem0100 x s
  | .nopMem0101 x => Sys2Proof.Machine.execNopMem0101 x s
  | .nopMem0111 x => Sys2Proof.Machine.execNopMem0111 x s
  | .nopMem1000 x => Sys2Proof.Machine.execNopMem1000 x s
  | .nopMem1010 x => Sys2Proof.Machine.execNopMem1010 x s
  | .nopMem1011 x => Sys2Proof.Machine.execNopMem1011 x s
  | .nopMem1100 x => Sys2Proof.Machine.execNopMem1100 x s
  | .nopMem1101 x => Sys2Proof.Machine.execNopMem1101 x s
  | .nopMem1110 x => Sys2Proof.Machine.execNopMem1110 x s
  | .nopMem1111 x => Sys2Proof.Machine.execNopMem1111 x s
  | .lil d imm => Sys2Proof.Machine.execLil d imm s
  | .lih d imm => Sys2Proof.Machine.execLih d imm s
  | .cmp u s1 s2 => Sys2Proof.Machine.execCmp u s1 s2 s
  | .brn off => Sys2Proof.Machine.execBrn off s
  | .brz off => Sys2Proof.Machine.execBrz off s
  | .brp off => Sys2Proof.Machine.execBrp off s
  | .jmp off => Sys2Proof.Machine.execJmp off s
  | .nopBr0000 x => Sys2Proof.Machine.execNopBr0000 x s
  | .nopBr0001 x => Sys2Proof.Machine.execNopBr0001 x s
  | .nopBr0010 x => Sys2Proof.Machine.execNopBr0010 x s
  | .nopBr0011 x => Sys2Proof.Machine.execNopBr0011 x s
  | .nopBr0100 x => Sys2Proof.Machine.execNopBr0100 x s
  | .nopBr0101 x => Sys2Proof.Machine.execNopBr0101 x s
  | .nopBr1010 x => Sys2Proof.Machine.execNopBr1010 x s
  | .nopBr1011 x => Sys2Proof.Machine.execNopBr1011 x s
  | .nopBr1100 x => Sys2Proof.Machine.execNopBr1100 x s
  | .nopBr1101 x => Sys2Proof.Machine.execNopBr1101 x s
  | .nopBr1110 x => Sys2Proof.Machine.execNopBr1110 x s
  | .nopBr1111 x => Sys2Proof.Machine.execNopBr1111 x s
  | .udi1100 bits => Sys2Proof.Machine.execUdi1100 bits s
  | .udi1101 bits => Sys2Proof.Machine.execUdi1101 bits s
  | .udi1110 bits => Sys2Proof.Machine.execUdi1110 bits s
  | .udi1111 bits => Sys2Proof.Machine.execUdi1111 bits s

end Sys2Proof.Machine
end

