-- ==== Sys2Proof/Machine/Step.lean ====
section
/-! DEFINITION. One step: fetch the word at the pc, decode it, execute it (20_memory.md R45; 30_encoding.md
R81; 60_exceptions.md R183). -/

namespace Sys2Proof.Machine

open Sys2Proof

/-- One step of the core. Every address holds some word and every word decodes, so nothing can stop the
machine before the instruction's own meaning is reached (20_memory.md R45). -/
def step (s : State) : Host.Outcome State Fault Refusal := exec (decodeWord s.fetchWord) s

/-- `s` with an instruction of `nbits` bits, bits above them 0, stored in the location the next step
fetches from. -/
def State.withFetchWord (s : State) (nbits w : Nat) : State :=
  s.setMem (Memory.writeWord s.mem s.pc (BitVec.ofNat 16 (w % 2 ^ nbits)))

end Sys2Proof.Machine
end

