-- ==== Sys2Proof/Machine/Boot.lean ====
section
/-! DEFINITION. What happens to the core from outside: a program is placed and reset released
(70_reset_and_hazards.md R200, R201), and the reset input as an event (60_exceptions.md R194). -/

namespace Sys2Proof.Machine

open Sys2Proof

/-- The start of a run: the program's words in memory from location 0 upward over what was there, and the
core in the reset state, CRN, CRZ and CRP at whatever the draw gives (70_reset_and_hazards.md R200, R201;
20_memory.md R47). -/
def State.launch (cfg : Config) (draw : CondRegs) (before : Memory) (program : List Word) : State :=
  .resetWith cfg draw (Memory.loadWords before 0 program)

/-- The reset input asserted between two instructions: the reset state, memory unchanged
(60_exceptions.md R194; 10_state.md R31). -/
def resetEvent (draw : CondRegs) (s : State) : State := .resetWith s.cfg draw s.mem

/-- The reset input asserted while an instruction is in progress, which is abandoned: memory is unchanged
but that a ST in progress may or may not have completed, as `completed` says (60_exceptions.md R194). -/
def resetDuring (completed : Bool) (draw : CondRegs) (s : State) : State :=
  match completed, step s with
  | true, .next t => resetEvent draw (s.setMem t.mem)
  | _, _ => resetEvent draw s

end Sys2Proof.Machine
end

