-- ==== Sys2Proof/Safety.lean ====
section
/-! DEFINITION. The words in which claims are stated: what runs, when a run has ended, what an instruction
leaves unchanged, and the invariants. -/

namespace Sys2Proof.Machine

open Sys2Proof

/-- Does this machine give every one of these register operands a meaning (47_undefined.md R174)? -/
def State.allows (s : State) (rs : List RegCode) : Bool := rs.all (RegCode.usable s.cfg.udoMode)

/-- A safe state: its step has a next state, so the instruction is no UDI and uses no undefined operand. -/
def Safe (s : State) : Prop := ∃ t, step s = .next t

/-- The word of JMP to itself (46_branch.md R164). -/
def haltWord : Word := 0xB9FF#16

/-- The end of a run: the pc holds the address of the word 0xB9FF (70_reset_and_hazards.md R205). -/
def runEnded (s : State) : Bool := s.fetchWord == haltWord

/-- Exactly one of CRN, CRZ, CRP is 1 (45_compare.md R151). -/
def CondRegs.oneHot (c : CondRegs) : Prop :=
  (c.crn = true ∧ c.crz = false ∧ c.crp = false) ∨
  (c.crn = false ∧ c.crz = true ∧ c.crp = false) ∨
  (c.crn = false ∧ c.crz = false ∧ c.crp = true)

/-- Every register operand but `d` reads in `t` as in `s`. -/
def SameRegsBut (d : RegCode) (s t : State) : Prop := ∀ r, r ≠ d → t.readReg r = s.readReg r

/-- Every register operand reads in `t` as in `s`. -/
def SameRegs (s t : State) : Prop := ∀ r, t.readReg r = s.readReg r

/-- Every byte of memory reads in `t` as in `s`. -/
def SameMem (s t : State) : Prop := ∀ k, Memory.readByte t.mem k = Memory.readByte s.mem k

/-- Every byte of memory but the two of location `a` reads in `t` as in `s`. -/
def SameMemBut (a : Word) (s t : State) : Prop :=
  ∀ k, k ≠ loAddr a → k ≠ hiAddr a → Memory.readByte t.mem k = Memory.readByte s.mem k

/-- The branch OFFSET as an integer: -128..+127, or 0..255 where `BR_OFFSET_SIGNED` is false (30_encoding.md
R70(c), decision D1). -/
def State.offsetValue (s : State) (off : Byte) : Int :=
  if s.cfg.brOffsetSigned then off.toInt else (off.toNat : Int)

/-- `pc + 1 + OFFSET` as an exact sum, reduced modulo 2^16 at the end (46_branch.md R160, R167). -/
def State.branchDestination (s : State) (off : Byte) : Word :=
  BitVec.ofInt 16 ((s.pc.toNat : Int) + 1 + s.offsetValue off)

/-- From `s`, `i` completes in a state where register `d` reads `v` and the pc has advanced by 1 modulo
2^16, and every other register, CRN, CRZ, CRP, memory and the parameters are as before. -/
def WritesRegister (i : Instr) (s : State) (d : RegCode) (v : Word) : Prop :=
  ∃ t, exec i s = .next t ∧ t.readReg d = v ∧ SameRegsBut d s t ∧ t.pc = s.pc + 1 ∧
    t.cr = s.cr ∧ SameMem s t ∧ t.cfg = s.cfg

/-- From `s`, `i` completes in a state where the pc is `target`, and every register, CRN, CRZ, CRP, memory
and the parameters are as before. -/
def OnlyMovesPc (i : Instr) (s : State) (target : Word) : Prop :=
  ∃ t, exec i s = .next t ∧ t.pc = target ∧ SameRegs s t ∧ t.cr = s.cr ∧ SameMem s t ∧ t.cfg = s.cfg

/-- From `s`, `i` completes in a state where CRN, CRZ, CRP are `c` and the pc has advanced by 1 modulo 2^16,
and every register, memory and the parameters are as before. -/
def WritesCond (i : Instr) (s : State) (c : CondRegs) : Prop :=
  ∃ t, exec i s = .next t ∧ t.cr = c ∧ t.pc = s.pc + 1 ∧ SameRegs s t ∧ SameMem s t ∧ t.cfg = s.cfg

/-- From `s`, `i` completes in a state where location `a` holds `v` and the pc has advanced by 1 modulo 2^16,
and every byte outside that location, every register, CRN, CRZ, CRP and the parameters are as before. -/
def WritesLocation (i : Instr) (s : State) (a v : Word) : Prop :=
  ∃ t, exec i s = .next t ∧ Memory.readWord t.mem a = v ∧ SameMemBut a s t ∧ t.pc = s.pc + 1 ∧
    SameRegs s t ∧ t.cr = s.cr ∧ t.cfg = s.cfg

end Sys2Proof.Machine
end

