-- ==== Sys2Proof/Certificates/Slice0/Obligations.lean ====
section
/-! DEFINITION. The statements for the provers. The words they use (`WritesRegister`, `OnlyMovesPc`,
`WritesCond`, `WritesLocation`, `State.allows`) are in Sys2Proof/Safety.lean. Each docstring names the rule
of the spec, and where a clause rests on a decision (D<n>) or a log entry, it says so. -/

open Sys2Proof Sys2Proof.Machine

/-! ## Results, frames and completion, one family at a time -/

/-- ADD and SUB complete with the exact sum or difference of the unsigned values reduced modulo 2^16 in the
destination and nothing else changed but the pc (R100, R101). The wrap of the result is decision D4 (log 9).
The advance of the pc is decision D9 (log 12), its wrap past 0xFFFF decision D8 (log 11), the result where
the destination is also a source decision D20 (log 19), and that CRN, CRZ, CRP stay is deduced (R27, log
29). -/
def Obligations.AddSubWriteWrappedResult : Prop :=
  ∀ (s : State) (d s1 s2 : RegCode), s.allows [d, s1, s2] = true →
    WritesRegister (.add d s1 s2) s d
      (BitVec.ofNat 16 ((s.readReg s1).toNat + (s.readReg s2).toNat)) ∧
    WritesRegister (.sub d s1 s2) s d
      (BitVec.ofInt 16 (((s.readReg s1).toNat : Int) - ((s.readReg s2).toNat : Int)))

/-- ADD and SUB complete with the same bits for the signed reading of the registers: the exact signed sum or
difference reduced modulo 2^16 in the destination, and nothing else changed but the pc (R100, R101, R102).
The wrap of the result is decision D4 (log 9). The advance of the pc is decision D9 (log 12), its wrap past
0xFFFF decision D8 (log 11), the result where the destination is also a source decision D20 (log 19), and
that CRN, CRZ, CRP stay is deduced (R27, log 29). -/
def Obligations.AddSubAgreeWithSignedReading : Prop :=
  ∀ (s : State) (d s1 s2 : RegCode), s.allows [d, s1, s2] = true →
    WritesRegister (.add d s1 s2) s d
      (BitVec.ofInt 16 ((s.readReg s1).toInt + (s.readReg s2).toInt)) ∧
    WritesRegister (.sub d s1 s2) s d
      (BitVec.ofInt 16 ((s.readReg s1).toInt - (s.readReg s2).toInt))

/-- AND, OR and NAND complete with each of the 16 bits computed from the same bit of the two sources, and
nothing else changed but the pc (R110, R111, R112). The advance of the pc is decision D9 (log 12), its wrap
past 0xFFFF decision D8 (log 11), the result where the destination is also a source decision D20 (log 19),
and that CRN, CRZ, CRP stay is deduced (R27, log 29). -/
def Obligations.LogicWritesBitwiseResult : Prop :=
  ∀ (s : State) (d s1 s2 : RegCode), s.allows [d, s1, s2] = true →
    (∃ v : Word, WritesRegister (.and d s1 s2) s d v ∧ ∀ i, i < 16 →
      v.getLsbD i = ((s.readReg s1).getLsbD i && (s.readReg s2).getLsbD i)) ∧
    (∃ v : Word, WritesRegister (.or d s1 s2) s d v ∧ ∀ i, i < 16 →
      v.getLsbD i = ((s.readReg s1).getLsbD i || (s.readReg s2).getLsbD i)) ∧
    (∃ v : Word, WritesRegister (.nand d s1 s2) s d v ∧ ∀ i, i < 16 →
      v.getLsbD i = !((s.readReg s1).getLsbD i && (s.readReg s2).getLsbD i))

/-- The dual uses the source names (R113): with 0xFFFF in SOURCE TWO, AND moves SOURCE ONE and NAND writes
its complement; with 0x0000, OR moves it. -/
def Obligations.LogicMovesAndNegates : Prop :=
  ∀ (s : State) (d s1 s2 : RegCode), s.allows [d, s1, s2] = true →
    (s.readReg s2 = 0xFFFF#16 →
      (∃ t, exec (.and d s1 s2) s = .next t ∧ t.readReg d = s.readReg s1) ∧
      (∃ t, exec (.nand d s1 s2) s = .next t ∧ t.readReg d = ~~~ s.readReg s1)) ∧
    (s.readReg s2 = 0x0000#16 →
      ∃ t, exec (.or d s1 s2) s = .next t ∧ t.readReg d = s.readReg s1)

/-- SLA on a machine that fills with zeros completes with u(a) * 2^n modulo 2^16, and nothing else changed
but the pc (R120). The fill is decision D3 (log 6). The advance of the pc is decision D9 (log 12), its wrap
past 0xFFFF decision D8 (log 11), the result where the destination is also a source decision D20 (log 19),
and that CRN, CRZ, CRP stay is deduced (R27, log 29). -/
def Obligations.SlaMultipliesByPowerOfTwo : Prop :=
  ∀ (s : State) (d a : RegCode) (n : Nibble), s.allows [d, a] = true → s.cfg.slaFill = .zero →
    WritesRegister (.sla d a n) s d (BitVec.ofNat 16 ((s.readReg a).toNat * 2 ^ n.toNat))

/-- SLA on a machine with `SLA_FILL = lsb` completes with the source moved n places and every vacated
position a copy of the original bit 0, and nothing else changed but the pc (R120's other reading of decision
D3, log 6). The advance of the pc is decision D9 (log 12), its wrap past 0xFFFF decision D8 (log 11), the
result where the destination is also a source decision D20 (log 19), and that CRN, CRZ, CRP stay is deduced
(R27, log 29). -/
def Obligations.SlaLsbFillRepeatsBitZero : Prop :=
  ∀ (s : State) (d a : RegCode) (n : Nibble), s.allows [d, a] = true → s.cfg.slaFill = .lsb →
    ∃ v : Word, WritesRegister (.sla d a n) s d v ∧ ∀ i, i < 16 →
      v.getLsbD i =
        if i < n.toNat then (s.readReg a).getLsbD 0 else (s.readReg a).getLsbD (i - n.toNat)

/-- The two readings of SLA differ exactly when bit 0 of the source is 1 and the count is at least 1
(R120). -/
def Obligations.SlaReadingsDifferExactly : Prop :=
  ∀ (v : Word) (n : Nibble),
    shiftLeftArith .zero v n ≠ shiftLeftArith .lsb v n ↔ v.getLsbD 0 = true ∧ 1 ≤ n.toNat

/-- SRA completes with floor(s(a) / 2^n), bit by bit the source moved n places with bit 15 copied into the
vacated positions, and nothing else changed but the pc (R121). The sign fill is the spec's reading of
"arithmetically" (log 27). The advance of the pc is decision D9 (log 12), its wrap past 0xFFFF decision D8
(log 11), the result where the destination is also a source decision D20 (log 19), and that CRN, CRZ, CRP
stay is deduced (R27, log 29). -/
def Obligations.SraDividesRoundingDown : Prop :=
  ∀ (s : State) (d a : RegCode) (n : Nibble), s.allows [d, a] = true →
    ∃ v : Word, WritesRegister (.sra d a n) s d v ∧
      v.toInt = Int.fdiv (s.readReg a).toInt (2 ^ n.toNat) ∧
      ∀ i, i < 16 → v.getLsbD i =
        if i + n.toNat ≤ 15 then (s.readReg a).getLsbD (i + n.toNat) else (s.readReg a).getLsbD 15

/-- The shift laws of R122: shifts compose, a left shift by 1 doubles, and a left shift is undone by the
right shift of the same count exactly when bits 15 down to 15 - n are all equal. -/
def Obligations.ShiftsComposeAndUndo : Prop :=
  ∀ (a : Word) (m n : Nibble),
    (∀ k : Nibble, k.toNat = m.toNat + n.toNat →
      shl (shl a m) n = shl a k ∧ asr (asr a m) n = asr a k) ∧
    shl a 1 = a + a ∧
    (asr (shl a n) n = a ↔ ∀ i, i ≤ n.toNat → a.getLsbD (15 - i) = a.getLsbD 15)

/-- LD completes with the whole location addressed by the old address register in the destination, and
nothing else changed but the pc (R130, R54). The advance of the pc is decision D9 (log 12), its wrap past
0xFFFF decision D8 (log 11), the result where the destination is also a source decision D20 (log 19), and
that CRN, CRZ, CRP stay is deduced (R27, log 29). -/
def Obligations.LdLoadsWholeLocation : Prop :=
  ∀ (s : State) (d a : RegCode), s.allows [d, a] = true →
    WritesRegister (.ld d a) s d (Memory.readWord s.mem (s.readReg a))

/-- LD from a location that nothing was placed or stored in completes with the word of `MEM_INIT`, whatever
that is, in the destination, and nothing else changed but the pc (R130, R47, R49). That the word is left
open is decision D11 (log 2). The advance of the pc is decision D9 (log 12), its wrap past 0xFFFF decision
D8 (log 11), the result where the destination is also a source decision D20 (log 19), and that CRN, CRZ, CRP
stay is deduced (R27, log 29). -/
def Obligations.LdOfUnwrittenLocationReadsMemInit : Prop :=
  ∀ (s : State) (d a : RegCode), s.allows [d, a] = true →
    Memory.find s.mem (loAddr (s.readReg a)) = none → Memory.find s.mem (hiAddr (s.readReg a)) = none →
    WritesRegister (.ld d a) s d (Config.memInit (s.readReg a))

/-- ST completes with the data register in the whole location at its effective address, which is the address
register's 16 bits, every byte outside that location as before, and nothing else changed but the pc (R131,
R54). The advance of the pc is decision D9 (log 12), its wrap past 0xFFFF decision D8 (log 11), and that
CRN, CRZ, CRP stay is deduced (R27, log 29). -/
def Obligations.StStoresWholeLocation : Prop :=
  ∀ (s : State) (c a : RegCode), s.allows [c, a] = true →
    effectiveAddress s a = s.readReg a ∧
    WritesLocation (.st c a) s (effectiveAddress s a) (s.readReg c)

/-- LIL completes with bits 7:0 the immediate and bits 15:8 kept, LIH with bits 15:8 the immediate and bits
7:0 kept, and nothing else changed but the pc (R140, R141). The advance of the pc is decision D9 (log 12),
its wrap past 0xFFFF decision D8 (log 11), and that CRN, CRZ, CRP stay is deduced (R27, log 29). -/
def Obligations.LilLihWriteOneByte : Prop :=
  ∀ (s : State) (d : RegCode) (imm : Byte), s.allows [d] = true →
    (∃ v : Word, WritesRegister (.lil d imm) s d v ∧
      v.extractLsb' 0 8 = imm ∧ v.extractLsb' 8 8 = (s.readReg d).extractLsb' 8 8) ∧
    (∃ v : Word, WritesRegister (.lih d imm) s d v ∧
      v.extractLsb' 8 8 = imm ∧ v.extractLsb' 0 8 = (s.readReg d).extractLsb' 0 8)

/-- CMP on a machine with `CMP_MODE = exact` completes with CRN, CRZ, CRP saying whether SOURCE ONE is less
than, equal to or greater than SOURCE TWO as signed integers, and nothing else changed but the pc (R150).
The exact difference is decision D2 (log 5), that bits 11:8 are ignored decision D19 (log 18). The advance
of the pc is decision D9 (log 12) and its wrap past 0xFFFF decision D8 (log 11). -/
def Obligations.CmpComparesSigned : Prop :=
  ∀ (s : State) (u : Nibble) (s1 s2 : RegCode), s.allows [s1, s2] = true → s.cfg.cmpMode = .exact →
    WritesCond (.cmp u s1 s2) s
      { crn := decide ((s.readReg s1).toInt < (s.readReg s2).toInt),
        crz := decide (s.readReg s1 = s.readReg s2),
        crp := decide ((s.readReg s2).toInt < (s.readReg s1).toInt) }

/-- CMP on a machine with `CMP_MODE = wrapped` completes with CRN, CRZ, CRP saying whether the 16-bit
difference is negative, zero or neither, and nothing else changed but the pc (R150's other reading of
decision D2, log 5). That bits 11:8 are ignored is decision D19 (log 18). The advance of the pc is decision
D9 (log 12) and its wrap past 0xFFFF decision D8 (log 11). -/
def Obligations.CmpWrappedTestsDifferenceSign : Prop :=
  ∀ (s : State) (u : Nibble) (s1 s2 : RegCode), s.allows [s1, s2] = true → s.cfg.cmpMode = .wrapped →
    ∃ r : Word, r = BitVec.ofInt 16 ((s.readReg s1).toInt - (s.readReg s2).toInt) ∧
      WritesCond (.cmp u s1 s2) s
        { crn := decide (r.toInt < 0), crz := decide (r.toInt = 0), crp := decide (0 < r.toInt) }

/-- The two readings of CMP's difference agree exactly when it fits in 16 signed bits, and always agree on
CRZ (R152). -/
def Obligations.CmpReadingsAgreeExactly : Prop :=
  ∀ a b : Word,
    (compareFlags .exact a b = compareFlags .wrapped a b ↔
      -32768 ≤ a.toInt - b.toInt ∧ a.toInt - b.toInt ≤ 32767) ∧
    (compareFlags .exact a b).crz = (compareFlags .wrapped a b).crz

/-- After any CMP, under both values of `CMP_MODE`, exactly one of CRN, CRZ, CRP is 1 (R151, which the spec
marks as derived). -/
def Obligations.CmpSetsExactlyOneCondition : Prop :=
  ∀ (s : State) (u : Nibble) (s1 s2 : RegCode), s.allows [s1, s2] = true →
    ∃ t, exec (.cmp u s1 s2) s = .next t ∧ t.cr.oneHot

/-- BRN, BRZ and BRP complete with the pc at pc + 1 + OFFSET if their own condition register is 1 and at pc
+ 1 otherwise, JMP always with the former, and nothing else changed (R160 to R164). Whether OFFSET is signed
is the machine's `BR_OFFSET_SIGNED` (decision D1, log 4), the wrap of pc + 1 and of the target past either
end decision D8 (log 11). -/
def Obligations.BranchesMoveOnlyThePc : Prop :=
  ∀ (s : State) (off : Byte),
    OnlyMovesPc (.brn off) s (if s.cr.crn then s.branchDestination off else s.pc + 1) ∧
    OnlyMovesPc (.brz off) s (if s.cr.crz then s.branchDestination off else s.pc + 1) ∧
    OnlyMovesPc (.brp off) s (if s.cr.crp then s.branchDestination off else s.pc + 1) ∧
    OnlyMovesPc (.jmp off) s (s.branchDestination off)

/-- Every NOP completes with the pc advanced by 1 and nothing else changed, whatever its ignored bits hold
(R132, R165). It covers all 26 NOP constructors: `nopMem0000` to `nopMem1111` (14) and `nopBr0000` to
`nopBr1111` (12). For opcode 0111 the advance is decision D9 (log 12); for both opcodes its wrap past 0xFFFF
is decision D8 (log 11); that ignored register fields are not checked is decision D18 (log 17). -/
def Obligations.NopsOnlyAdvance : Prop :=
  ∀ (i : Instr) (s : State), i.isNop = true → OnlyMovesPc i s (s.pc + 1)

/-- A word with opcode 1011 whose MODE is none of 0110, 0111, 1000, 1001 decodes to an instruction that
completes with pc + 1 and nothing else changed (R165). That the pc goes from 0xFFFF to 0x0000 is R26's
decision D8 (log 11), which the source does not state. -/
def Obligations.BranchWordsOfOtherModesOnlyAdvance : Prop :=
  ∀ (w : Word) (s : State), w.extractLsb' 12 4 = 0b1011#4 →
    w.extractLsb' 8 4 ≠ 0b0110#4 → w.extractLsb' 8 4 ≠ 0b0111#4 →
    w.extractLsb' 8 4 ≠ 0b1000#4 → w.extractLsb' 8 4 ≠ 0b1001#4 →
    OnlyMovesPc (decodeWord w) s (s.pc + 1)

/-! ## Where an instruction stops -/

/-- Each of the four UDI opcodes is refused by name, whatever its other twelve bits (R170 to R173; decision
D6, log 8). -/
def Obligations.UdiIsRefused : Prop :=
  ∀ (bits : BitVec 12) (s : State),
    exec (.udi1100 bits) s = .refused (.undefinedInstruction 0b1100#4) ∧
    exec (.udi1101 bits) s = .refused (.undefinedInstruction 0b1101#4) ∧
    exec (.udi1110 bits) s = .refused (.undefinedInstruction 0b1110#4) ∧
    exec (.udi1111 bits) s = .refused (.undefinedInstruction 0b1111#4)

/-- On a machine with `UDO_MODE = refuse`, an instruction of a defined opcode with a code 12 to 15 in a
register field it reads or writes is refused by the name of the first such code from bit 11 down (R174;
decision D5, log 7; which code is named is the model's choice, log 24). -/
def Obligations.UndefinedOperandIsRefused : Prop :=
  ∀ (i : Instr) (s : State) (before after : List RegCode) (n : Fin 4),
    s.cfg.udoMode = .refuse → i.regFields = before ++ RegCode.udo n :: after →
    before.all RegCode.isGpr = true →
    exec i s = .refused (.undefinedOperand (BitVec.ofNat 4 (12 + n.val)))

/-- An instruction completes exactly when its opcode is one of the twelve defined ones and the machine gives
every register field it reads or writes a meaning; otherwise it is refused, as an undefined instruction or
as an undefined operand, and there is no third outcome (R180, R183; decisions D5, D6, D14, logs 7, 8, 15).
That a pc past 0xFFFF wraps and is no refusal is decision D8 (log 11). -/
def Obligations.ExecCompletesExactlyWhenDefined : Prop :=
  ∀ (i : Instr) (s : State),
    ((∃ t, exec i s = .next t) ↔ i.isUdi = false ∧ s.allows i.regFields = true) ∧
    (i.isUdi = true → exec i s = .refused (.undefinedInstruction i.opcode)) ∧
    (i.isUdi = false → s.allows i.regFields = false →
      ∃ n, RegCode.udo n ∈ i.regFields ∧ exec i s = .refused (.undefinedOperand (RegCode.udo n).bits))

/-- A well-formed instruction, one that uses only the twelve defined opcodes and R0 to R11, completes in
every state of every machine (R175, which the spec marks as derived). That a pc past 0xFFFF wraps and is no
refusal is decision D8 (log 11). -/
def Obligations.WellFormedInstructionCompletes : Prop :=
  ∀ (i : Instr) (s : State), i.wellFormed = true → ∃ t, exec i s = .next t

/-! ## Encoding -/

/-- Decoding an encoded instruction gives it back, for every instruction and every operand value (R84,
R81). -/
def Obligations.DecodeOfEncode : Prop := ∀ i : Instr, decodeWord (encode i) = i

/-- Encoding a decoded word gives it back, for every one of the 65,536 words: no bit of a word is dropped
and no two words are one instruction (R71, R81). That ignored bits are kept in the instruction is the
model's choice (log 26). -/
def Obligations.EncodeOfDecode : Prop := ∀ w : Word, encode (decodeWord w) = w

/-- The assembler's word of a decoded word is the original one, except exactly for CMP words with non-zero
bits 11:8 and NOP words other than 0x7000 (R84; decisions D19, D28, log 26). -/
def Obligations.AssembleOfDecodeIsCanonical : Prop :=
  ∀ w : Word, assemble (decodeWord w) ≠ w ↔
    (w.extractLsb' 12 4 = 0b1010#4 ∧ w.extractLsb' 8 4 ≠ 0b0000#4) ∨
    ((decodeWord w).isNop = true ∧ w ≠ 0x7000#16)

/-- The assembler's instruction runs as the original in every state: the ignored bits have no effect (R75,
R76; decisions D18, D19, logs 17, 18). -/
def Obligations.CanonicalInstructionRunsTheSame : Prop :=
  ∀ (i : Instr) (s : State), exec i.canonical s = exec i s

/-- The MODE table of opcode 0111 (R72): 0110 is LD, 1001 is ST, every other value is a NOP; bits 11:8 are
the data register and bits 7:4 the address register. -/
def Obligations.ModeTableOfOpcode0111 : Prop :=
  ∀ w : Word, w.extractLsb' 12 4 = 0b0111#4 →
    (w.extractLsb' 0 4 = 0b0110#4 →
      decodeWord w = .ld (.ofBits (w.extractLsb' 8 4)) (.ofBits (w.extractLsb' 4 4))) ∧
    (w.extractLsb' 0 4 = 0b1001#4 →
      decodeWord w = .st (.ofBits (w.extractLsb' 8 4)) (.ofBits (w.extractLsb' 4 4))) ∧
    (w.extractLsb' 0 4 ≠ 0b0110#4 → w.extractLsb' 0 4 ≠ 0b1001#4 → (decodeWord w).isNop = true)

/-- The MODE table of opcode 1011 (R73): 0110 is BRN, 0111 BRZ, 1000 BRP, 1001 JMP, every other value is a
NOP; bits 7:0 are the OFFSET. -/
def Obligations.ModeTableOfOpcode1011 : Prop :=
  ∀ w : Word, w.extractLsb' 12 4 = 0b1011#4 →
    (w.extractLsb' 8 4 = 0b0110#4 → decodeWord w = .brn (w.extractLsb' 0 8)) ∧
    (w.extractLsb' 8 4 = 0b0111#4 → decodeWord w = .brz (w.extractLsb' 0 8)) ∧
    (w.extractLsb' 8 4 = 0b1000#4 → decodeWord w = .brp (w.extractLsb' 0 8)) ∧
    (w.extractLsb' 8 4 = 0b1001#4 → decodeWord w = .jmp (w.extractLsb' 0 8)) ∧
    (w.extractLsb' 8 4 ≠ 0b0110#4 → w.extractLsb' 8 4 ≠ 0b0111#4 →
      w.extractLsb' 8 4 ≠ 0b1000#4 → w.extractLsb' 8 4 ≠ 0b1001#4 → (decodeWord w).isNop = true)

/-- The source's worked encodings E1 to E13 decode to the instructions they stand for (95_test_vectors.md
Part 1; R79). -/
def Obligations.WorkedEncodingsDecode : Prop :=
  decodeWord 0x0756#16 = .add (.gpr 7) (.gpr 5) (.gpr 6) ∧
  decodeWord 0x1756#16 = .sub (.gpr 7) (.gpr 5) (.gpr 6) ∧
  decodeWord 0x2756#16 = .and (.gpr 7) (.gpr 5) (.gpr 6) ∧
  decodeWord 0x3756#16 = .or (.gpr 7) (.gpr 5) (.gpr 6) ∧
  decodeWord 0x4756#16 = .nand (.gpr 7) (.gpr 5) (.gpr 6) ∧
  decodeWord 0x5756#16 = .sla (.gpr 7) (.gpr 5) 6 ∧
  decodeWord 0x6756#16 = .sra (.gpr 7) (.gpr 5) 6 ∧
  decodeWord 0x7756#16 = .ld (.gpr 7) (.gpr 5) ∧
  decodeWord 0x7759#16 = .st (.gpr 7) (.gpr 5) ∧
  decodeWord 0x8756#16 = .lil (.gpr 7) 0x56 ∧
  decodeWord 0x9756#16 = .lih (.gpr 7) 0x56 ∧
  decodeWord 0xA056#16 = .cmp 0 (.gpr 5) (.gpr 6) ∧
  decodeWord 0xB656#16 = .brn 0x56

/-- The offset the assembler computes for a label exists exactly when the label is -128 to +127 from the
incremented pc, and on a machine with signed offsets a JMP with it goes to the label and nothing else
changed (R80, R164; decision D1, log 4). Where pc + 1 wraps past 0xFFFF that is decision D8 (log 11). -/
def Obligations.LabelOffsetReachesLabel : Prop :=
  ∀ b l : Word,
    ((labelOffset b l).isSome = true ↔
      -128 ≤ (l.toNat : Int) - ((b.toNat : Int) + 1) ∧ (l.toNat : Int) - ((b.toNat : Int) + 1) ≤ 127) ∧
    ∀ (off : Byte) (s : State), labelOffset b l = some off → s.pc = b → s.cfg.brOffsetSigned = true →
      OnlyMovesPc (.jmp off) s l

/-! ## The machine -/

/-- A step runs the decoded instruction: when the two bytes at the pc, low byte first, decode to `i`, the
step is `exec i`, with nothing added around it (R45, R183). -/
def Obligations.StepRunsDecodedInstruction : Prop :=
  ∀ (s : State) (i : Instr) (rest : List Byte),
    decodeBytes [Memory.readByte s.mem (loAddr s.pc), Memory.readByte s.mem (hiAddr s.pc)] =
      .ok (i, rest) →
    step s = exec i s

/-- Every instruction but a taken BRN, BRZ, BRP or a JMP leaves the pc one location on, modulo 2^16 (R25,
R26; decisions D8, D9, logs 11, 12). -/
def Obligations.OnlyTakenBranchesLeaveSequence : Prop :=
  ∀ (i : Instr) (s t : State), exec i s = .next t → t.pc ≠ s.pc + 1 →
    (∃ off, i = .brn off ∧ s.cr.crn = true ∧ t.pc = s.branchDestination off) ∨
    (∃ off, i = .brz off ∧ s.cr.crz = true ∧ t.pc = s.branchDestination off) ∨
    (∃ off, i = .brp off ∧ s.cr.crp = true ∧ t.pc = s.branchDestination off) ∨
    (∃ off, i = .jmp off ∧ t.pc = s.branchDestination off)

/-- Which instructions reach memory (R42). An instruction that is neither LD nor ST leaves every byte as it
was and acts the same whatever memory holds; LD leaves every byte as it was and depends on the one location
it reads; ST changes its one location and depends on none; a step's fetch depends on the one location at
the pc. -/
def Obligations.OnlyLdAndStReachMemory : Prop :=
  (∀ (i : Instr) (s t : State), exec i s = .next t →
    ((∀ d a, i ≠ .ld d a) → (∀ c a, i ≠ .st c a) →
      SameMem s t ∧ ∀ m, exec i (s.setMem m) = .next (t.setMem m)) ∧
    (∀ d a, i = .ld d a →
      SameMem s t ∧ ∀ m, Memory.readWord m (s.readReg a) = Memory.readWord s.mem (s.readReg a) →
        exec i (s.setMem m) = .next (t.setMem m)) ∧
    (∀ c a, i = .st c a →
      SameMemBut (effectiveAddress s a) s t ∧ ∀ m, exec i (s.setMem m) =
        .next (t.setMem (Memory.writeWord m (effectiveAddress s a) (s.readReg c))))) ∧
  (∀ (s : State) (m : Memory), Memory.readWord m s.pc = Memory.readWord s.mem s.pc →
    step (s.setMem m) = exec (decodeWord s.fetchWord) (s.setMem m))

/-- CRN, CRZ, CRP are written only by CMP and read only by BRN, BRZ and BRP (R27). That no other instruction
writes them is deduced (log 29). -/
def Obligations.OnlyCmpWritesConditions : Prop :=
  ∀ (i : Instr) (s t : State), exec i s = .next t →
    ((∀ u a b, i ≠ .cmp u a b) → t.cr = s.cr) ∧
    ((∀ u a b, i ≠ .cmp u a b) → (∀ off, i ≠ .brn off) → (∀ off, i ≠ .brz off) →
      (∀ off, i ≠ .brp off) → ∀ c, exec i (s.setCond c) = .next (t.setCond c)) ∧
    (∀ u a b, i = .cmp u a b → ∀ c, exec i (s.setCond c) = .next t)

/-- After a ST, a LD from the same location completes with the word stored in its destination and nothing
else changed but the pc, and every other location reads as before the store (R130, R131, R49). That a load
sees the latest store is decision D13 (log 14). The advance of the pc is decision D9 (log 12), its wrap past
0xFFFF decision D8 (log 11), the result where the destination is also a source decision D20 (log 19), and
that CRN, CRZ, CRP stay is deduced (R27, log 29). -/
def Obligations.LoadAfterStoreReturnsStoredWord : Prop :=
  ∀ (s : State) (c a d : RegCode), s.allows [c, a] = true → s.allows [d, a] = true →
    ∃ t, exec (.st c a) s = .next t ∧
      WritesRegister (.ld d a) t d (s.readReg c) ∧
      ∀ b, b ≠ s.readReg a → Memory.readWord t.mem b = Memory.readWord s.mem b

/-- A store to the location after the ST is executed by the very next step (R51; decision D12, log 13). That
the pc then holds that location is decision D9 (log 12), past 0xFFFF decision D8 (log 11). -/
def Obligations.StoreIsSeenByNextFetch : Prop :=
  ∀ (s : State) (c a : RegCode), s.allows [c, a] = true → s.readReg a = s.pc + 1 →
    ∃ t, exec (.st c a) s = .next t ∧ step t = exec (decodeWord (s.readReg c)) t

/-- LIL and LIH in either order leave HH ++ LL in the register, whatever it held, and nothing else changed
but the pc, advanced by 2 (R142, which the spec marks as derived). The advance of the pc is decision D9 (log
12), its wrap past 0xFFFF decision D8 (log 11), and that CRN, CRZ, CRP stay is deduced (R27, log 29). -/
def Obligations.LilLihPairBuildsConstant : Prop :=
  ∀ (s : State) (d : RegCode) (hh ll : Byte), s.allows [d] = true →
    ∃ t u, exec (.lil d ll) s = .next t ∧ exec (.lih d hh) t = .next u ∧
      ∃ t' u', exec (.lih d hh) s = .next t' ∧ exec (.lil d ll) t' = .next u' ∧
        u = u' ∧ (u.readReg d).toNat = hh.toNat * 256 + ll.toNat ∧ SameRegsBut d s u ∧
        u.pc = s.pc + 2 ∧ u.cr = s.cr ∧ SameMem s u ∧ u.cfg = s.cfg

/-- When a run has ended, on a machine with signed offsets, every further step leaves the whole state
unchanged (R205; decisions D1, D16, logs 4, 16). Where the run ended at 0xFFFF, pc + 1 wraps and back:
decision D8 (log 11). -/
def Obligations.EndedRunNoLongerChanges : Prop :=
  ∀ s : State, runEnded s = true → s.cfg.brOffsetSigned = true →
    step s = .next s ∧ ∀ k, Host.Core.run Sys2Proof.core k s = .next s

/-! ## Reset and launch -/

/-- Right after reset the pc and every register are 0x0000, CRN, CRZ, CRP are whatever the draw gives and
memory is as it was, for every value of what the spec leaves open (R31, R200; decisions D10, D11, D27, logs
3, 2, 7), and `State.reset` is one such state, whose draw 0, 0, 0 is the model's choice (log 3). -/
def Obligations.ResetClearsPcAndRegisters : Prop :=
  (∀ (cfg : Config) (draw : CondRegs) (m : Memory),
    (State.resetWith cfg draw m).pc = 0x0000#16 ∧
    (∀ r, (State.resetWith cfg draw m).readReg r = 0x0000#16) ∧
    (State.resetWith cfg draw m).cr = draw ∧ (State.resetWith cfg draw m).mem = m) ∧
  State.reset = State.resetWith .decided ⟨false, false, false⟩ []

/-- The reset input asserted during an instruction clears the pc and every register, and leaves memory as
before that instruction or as after it (R194; decision D22, log 20). -/
def Obligations.ResetDuringInstructionClears : Prop :=
  ∀ (completed : Bool) (draw : CondRegs) (s : State),
    (resetDuring completed draw s).pc = 0x0000#16 ∧
    (∀ r, (resetDuring completed draw s).readReg r = 0x0000#16) ∧
    (resetDuring completed draw s).cr = draw ∧ (resetDuring completed draw s).cfg = s.cfg ∧
    ((resetDuring completed draw s).mem = s.mem ∨
      ∃ t, step s = .next t ∧ (resetDuring completed draw s).mem = t.mem)

/-- A launched program's words stand one a location from 0x0000 up, in order, every location past them is
as it was, and the first step runs the first of them (R200, R201; decision D11, log 23). -/
def Obligations.LaunchPlacesProgramFromZero : Prop :=
  ∀ (cfg : Config) (draw : CondRegs) (before : Memory) (ws : List Word), ws.length ≤ 65536 →
    (∀ (k : Nat) (h : k < ws.length),
      Memory.readWord (State.launch cfg draw before ws).mem (BitVec.ofNat 16 k) = ws[k]) ∧
    (∀ b : Word, ws.length ≤ b.toNat →
      Memory.readWord (State.launch cfg draw before ws).mem b = Memory.readWord before b) ∧
    (∀ (h : 0 < ws.length), step (State.launch cfg draw before ws) =
      exec (decodeWord ws[0]) (State.launch cfg draw before ws))

/-! ## Invariants -/

/-- Every step keeps memory in its canonical form (log 1). -/
def Obligations.StepKeepsCanonicalMemory : Prop :=
  ∀ s t : State, Memory.wf s.mem → step s = .next t → Memory.wf t.mem

/-- Memory right after reset, and after any launch over a canonical memory, is in canonical form
(log 1). -/
def Obligations.ResetMemoryIsCanonical : Prop :=
  Memory.wf State.reset.mem ∧
  ∀ (cfg : Config) (draw : CondRegs) (before : Memory) (ws : List Word), Memory.wf before →
    Memory.wf (State.launch cfg draw before ws).mem

/-- Once exactly one of CRN, CRZ, CRP is 1, every step keeps it so (R27, R151). That no instruction but CMP
writes them is deduced (log 29). It need not hold right after reset (R151, log 3). -/
def Obligations.StepKeepsOneConditionSet : Prop :=
  ∀ s t : State, s.cr.oneHot → step s = .next t → t.cr.oneHot

/-- No step changes the parameters, and on a machine with `UDO_MODE = refuse` the storage of U0 to U3 is no
state of the machine: no step changes it and no step depends on it (R30; decision D5, logs 7, 25). -/
def Obligations.UndefinedOperandStorageIsInert : Prop :=
  ∀ s t : State, step s = .next t →
    t.cfg = s.cfg ∧
    (s.cfg.udoMode = .refuse → t.udo = s.udo ∧
      ∀ u : Vector Word 4, step { s with udo := u } = .next { t with udo := u })
end

