-- ==== Sys2Proof/Laws/Memory.lean ====
section
/-! SUPPORT. Read after write, and that every memory operation keeps the canonical form. -/

namespace Sys2Proof.Machine

open Sys2Proof

/-- The byte just listed is found, whatever the list was. -/
theorem Memory.find_put_same (m : Memory) (a : Nat) (v : Byte) :
    Memory.find (Memory.put m a v) a = some v := by
  induction m with
  | nil => simp [Memory.put, Memory.find]
  | cons c m ih =>
    obtain ⟨k, b⟩ := c
    simp only [Memory.put]
    split_ifs with h1 h2
    · simp [Memory.find]
    · simp [Memory.find]
    · have : k ≠ a := fun e => h2 e.symm
      simp [Memory.find, this, ih]

/-- Listing a byte changes what is found at no other address. -/
theorem Memory.find_put_other (m : Memory) {a k : Nat} (v : Byte) (h : k ≠ a) :
    Memory.find (Memory.put m a v) k = Memory.find m k := by
  have h' : a ≠ k := fun e => h e.symm
  induction m with
  | nil => simp [Memory.put, Memory.find, h']
  | cons c m ih =>
    obtain ⟨j, b⟩ := c
    simp only [Memory.put]
    split_ifs with h1 h2
    · simp [Memory.find, h']
    · subst h2
      simp [Memory.find, h']
    · by_cases hj : j = k <;> simp [Memory.find, hj, ih]

theorem Memory.readByte_put_same (m : Memory) (a : Nat) (v : Byte) :
    Memory.readByte (Memory.put m a v) a = v := by
  simp [Memory.readByte, Memory.find_put_same]

theorem Memory.readByte_put_other (m : Memory) {a k : Nat} (v : Byte) (h : k ≠ a) :
    Memory.readByte (Memory.put m a v) k = Memory.readByte m k := by
  simp [Memory.readByte, Memory.find_put_other m v h]

/-- The two bytes of a word make the word. -/
@[simp] theorem wordOfBytes_hi_lo (w : Word) : wordOfBytes (hiByte w) (loByte w) = w := by
  ext i hi
  simp only [wordOfBytes, hiByte, loByte, BitVec.getElem_cast, BitVec.getElem_append,
    BitVec.getElem_extractLsb']
  split
  · simp [BitVec.getLsbD_eq_getElem hi]
  · rw [show 8 + (i - 8) = i by omega, BitVec.getLsbD_eq_getElem hi]

@[simp] theorem hiByte_wordOfBytes (h l : Byte) : hiByte (wordOfBytes h l) = h := by
  ext i hi
  rw [wordOfBytes, hiByte, BitVec.getElem_extractLsb', BitVec.getLsbD_cast, BitVec.getLsbD_append]
  simp [BitVec.getLsbD_eq_getElem hi]

@[simp] theorem loByte_wordOfBytes (h l : Byte) : loByte (wordOfBytes h l) = l := by
  ext i hi
  rw [wordOfBytes, loByte, BitVec.getElem_extractLsb', BitVec.getLsbD_cast, BitVec.getLsbD_append]
  simp [hi]

/-- A location nothing was placed or stored in holds the word of `MEM_INIT` (20_memory.md R47). -/
theorem Memory.readWord_of_unlisted (m : Memory) (a : Word)
    (hl : Memory.find m (loAddr a) = none) (hh : Memory.find m (hiAddr a) = none) :
    Memory.readWord m a = Config.memInit a := by
  have e0 : 2 * a.toNat / 2 = a.toNat := by omega
  have e1 : (2 * a.toNat + 1) / 2 = a.toNat := by omega
  have e2 : (2 * a.toNat + 1) % 2 ≠ 0 := by omega
  simp only [loAddr, hiAddr] at hl hh
  simp [Memory.readWord, Memory.readByte, hl, hh, initialByte, loAddr, hiAddr, e0, e1]

theorem loAddr_ne_hiAddr (a b : Word) : loAddr a ≠ hiAddr b := by
  simp only [loAddr, hiAddr]; omega

theorem loAddr_injective {a b : Word} (h : loAddr a = loAddr b) : a = b := by
  simp only [loAddr] at h
  exact BitVec.eq_of_toNat_eq (by omega)

theorem hiAddr_injective {a b : Word} (h : hiAddr a = hiAddr b) : a = b := by
  simp only [hiAddr] at h
  exact BitVec.eq_of_toNat_eq (by omega)

theorem loAddr_lt (a : Word) : loAddr a < memBytes := by
  have := a.isLt
  simp only [loAddr, memBytes]; omega

theorem hiAddr_lt (a : Word) : hiAddr a < memBytes := by
  have := a.isLt
  simp only [hiAddr, memBytes]; omega

/-- A store changes no byte outside its location. -/
theorem Memory.readByte_writeWord_other (m : Memory) (a v : Word) {k : Nat}
    (hl : k ≠ loAddr a) (hh : k ≠ hiAddr a) :
    Memory.readByte (Memory.writeWord m a v) k = Memory.readByte m k := by
  rw [Memory.writeWord, Memory.readByte_put_other _ _ hh, Memory.readByte_put_other _ _ hl]

/-- A load after a store to the same location returns the word stored (20_memory.md R49). -/
theorem Memory.readWord_writeWord_same (m : Memory) (a v : Word) :
    Memory.readWord (Memory.writeWord m a v) a = v := by
  rw [Memory.readWord, Memory.writeWord, Memory.readByte_put_same,
    Memory.readByte_put_other _ _ (loAddr_ne_hiAddr a a), Memory.readByte_put_same,
    wordOfBytes_hi_lo]

/-- A store leaves every other location alone. -/
theorem Memory.readWord_writeWord_other (m : Memory) {a b : Word} (v : Word) (h : b ≠ a) :
    Memory.readWord (Memory.writeWord m a v) b = Memory.readWord m b := by
  have hl : loAddr b ≠ loAddr a := fun e => h (loAddr_injective e)
  have hh : hiAddr b ≠ hiAddr a := fun e => h (hiAddr_injective e)
  rw [Memory.readWord, Memory.readByte_writeWord_other _ _ _ (loAddr_ne_hiAddr a b).symm hh,
    Memory.readByte_writeWord_other _ _ _ hl (loAddr_ne_hiAddr b a), Memory.readWord]

/-- The cells after listing a byte are the new one and old ones. -/
theorem Memory.mem_put {m : Memory} {a : Nat} {v : Byte} {c : Host.Cell}
    (h : c ∈ Memory.put m a v) : c = (a, v) ∨ c ∈ m := by
  induction m with
  | nil => simpa [Memory.put] using h
  | cons d m ih =>
    obtain ⟨k, b⟩ := d
    simp only [Memory.put] at h
    split_ifs at h with h1 h2
    · simpa using h
    · rcases List.mem_cons.1 h with h | h
      · exact .inl h
      · exact .inr (List.mem_cons_of_mem _ h)
    · rcases List.mem_cons.1 h with h | h
      · exact .inr (h ▸ List.mem_cons_self)
      · exact (ih h).imp id (List.mem_cons_of_mem _)

/-- Listing a byte of the address space keeps the canonical form. -/
theorem Memory.put_keeps_wf {m : Memory} (hm : Memory.wf m) {a : Nat} (ha : a < memBytes) (v : Byte) :
    Memory.wf (Memory.put m a v) := by
  refine ⟨?_, fun c hc => ?_⟩
  · have hs := hm.1
    clear hm
    induction m with
    | nil => simp [Memory.put]
    | cons d m ih =>
      obtain ⟨k, b⟩ := d
      obtain ⟨hk, hs'⟩ := List.pairwise_cons.1 hs
      simp only [Memory.put]
      split_ifs with h1 h2
      · refine List.pairwise_cons.2 ⟨fun c hc => ?_, hs⟩
        rcases List.mem_cons.1 hc with rfl | hc
        · exact h1
        · exact lt_trans h1 (hk c hc)
      · exact List.pairwise_cons.2 ⟨fun c hc => h2 ▸ hk c hc, hs'⟩
      · refine List.pairwise_cons.2 ⟨fun c hc => ?_, ih hs'⟩
        rcases Memory.mem_put hc with rfl | hc
        · show k < a
          omega
        · exact hk c hc
  · rcases Memory.mem_put hc with rfl | hc
    · exact ha
    · exact hm.2 c hc

/-- A store keeps the canonical form. -/
theorem Memory.writeWord_keeps_wf {m : Memory} (hm : Memory.wf m) (a v : Word) :
    Memory.wf (Memory.writeWord m a v) :=
  Memory.put_keeps_wf (Memory.put_keeps_wf hm (loAddr_lt a) _) (hiAddr_lt a) _

/-- Placing a program keeps the canonical form. -/
theorem Memory.loadWords_keeps_wf {m : Memory} (hm : Memory.wf m) (a : Word) (ws : List Word) :
    Memory.wf (Memory.loadWords m a ws) := by
  induction ws generalizing m a with
  | nil => exact hm
  | cons w ws ih => exact ih (Memory.writeWord_keeps_wf hm a w) (a + 1)

/-- Memory right after reset, with nothing placed, is in canonical form. -/
theorem State.reset_mem_wf : Memory.wf State.reset.mem := by
  simp [State.reset, State.resetWith, Memory.wf]

/-- Equal contents are equal data: two memories in canonical form that list the same bytes are the same
list. -/
theorem Memory.eq_of_find_eq {m m' : Memory} (hm : Memory.wf m) (hm' : Memory.wf m')
    (h : ∀ k, Memory.find m k = Memory.find m' k) : m = m' := by
  have low : ∀ {k : Nat} {l : Memory}, (∀ c ∈ l, k < c.1) → Memory.find l k = none := by
    intro k l hl
    induction l with
    | nil => rfl
    | cons c l ih =>
      have hc : c.1 ≠ k := (hl c List.mem_cons_self).ne'
      simp [Memory.find, hc, ih fun d hd => hl d (List.mem_cons_of_mem _ hd)]
  obtain ⟨hs, -⟩ := hm
  obtain ⟨hs', -⟩ := hm'
  induction m generalizing m' with
  | nil =>
    cases m' with
    | nil => rfl
    | cons c m' => simpa [Memory.find] using h c.1
  | cons c m ih =>
    cases m' with
    | nil => simpa [Memory.find] using h c.1
    | cons c' m' =>
      obtain ⟨hc, ht⟩ := List.pairwise_cons.1 hs
      obtain ⟨hc', ht'⟩ := List.pairwise_cons.1 hs'
      have hk : c.1 = c'.1 := by
        rcases lt_trichotomy c.1 c'.1 with hlt | he | hgt
        · have hn : Memory.find (c' :: m') c.1 = none := low fun d hd => by
            rcases List.mem_cons.1 hd with rfl | hd
            · exact hlt
            · exact lt_trans hlt (hc' d hd)
          have := (h c.1).trans hn
          simp [Memory.find] at this
        · exact he
        · have hn : Memory.find (c :: m) c'.1 = none := low fun d hd => by
            rcases List.mem_cons.1 hd with rfl | hd
            · exact hgt
            · exact lt_trans hgt (hc d hd)
          have := (h c'.1).symm.trans hn
          simp [Memory.find] at this
      have hv : c = c' := by
        have := h c.1
        simp [Memory.find, hk] at this
        exact Prod.ext hk this
      subst hv
      have hf : ∀ k, Memory.find m k = Memory.find m' k := fun k => by
        by_cases hkc : c.1 = k
        · subst hkc
          rw [low hc, low hc']
        · simpa [Memory.find, hkc] using h k
      rw [ih hf ht ht']

end Sys2Proof.Machine
end

