-- ==== Sys2Proof/Laws/State.lean ====
section
/-! SUPPORT. Every field after every update of a state, and what the register operations read and write. -/

namespace Sys2Proof.Machine

open Sys2Proof

variable (s : State)

@[simp] theorem State.writeReg_regs (r : RegCode) (v : Word) : (s.writeReg r v).regs = writeGpr s.regs r v := rfl
@[simp] theorem State.writeReg_pc (r : RegCode) (v : Word) : (s.writeReg r v).pc = s.pc := rfl
@[simp] theorem State.writeReg_cr (r : RegCode) (v : Word) : (s.writeReg r v).cr = s.cr := rfl
@[simp] theorem State.writeReg_mem (r : RegCode) (v : Word) : (s.writeReg r v).mem = s.mem := rfl
@[simp] theorem State.writeReg_udo (r : RegCode) (v : Word) : (s.writeReg r v).udo = writeUdo s.udo r v := rfl
@[simp] theorem State.writeReg_cfg (r : RegCode) (v : Word) : (s.writeReg r v).cfg = s.cfg := rfl

@[simp] theorem State.setCond_regs (c : CondRegs) : (s.setCond c).regs = s.regs := rfl
@[simp] theorem State.setCond_pc (c : CondRegs) : (s.setCond c).pc = s.pc := rfl
@[simp] theorem State.setCond_cr (c : CondRegs) : (s.setCond c).cr = c := rfl
@[simp] theorem State.setCond_mem (c : CondRegs) : (s.setCond c).mem = s.mem := rfl
@[simp] theorem State.setCond_udo (c : CondRegs) : (s.setCond c).udo = s.udo := rfl
@[simp] theorem State.setCond_cfg (c : CondRegs) : (s.setCond c).cfg = s.cfg := rfl

@[simp] theorem State.setPc_regs (t : Word) : (s.setPc t).regs = s.regs := rfl
@[simp] theorem State.setPc_pc (t : Word) : (s.setPc t).pc = t := rfl
@[simp] theorem State.setPc_cr (t : Word) : (s.setPc t).cr = s.cr := rfl
@[simp] theorem State.setPc_mem (t : Word) : (s.setPc t).mem = s.mem := rfl
@[simp] theorem State.setPc_udo (t : Word) : (s.setPc t).udo = s.udo := rfl
@[simp] theorem State.setPc_cfg (t : Word) : (s.setPc t).cfg = s.cfg := rfl

@[simp] theorem State.setMem_regs (m : Memory) : (s.setMem m).regs = s.regs := rfl
@[simp] theorem State.setMem_pc (m : Memory) : (s.setMem m).pc = s.pc := rfl
@[simp] theorem State.setMem_cr (m : Memory) : (s.setMem m).cr = s.cr := rfl
@[simp] theorem State.setMem_mem (m : Memory) : (s.setMem m).mem = m := rfl
@[simp] theorem State.setMem_udo (m : Memory) : (s.setMem m).udo = s.udo := rfl
@[simp] theorem State.setMem_cfg (m : Memory) : (s.setMem m).cfg = s.cfg := rfl

@[simp] theorem State.advance_regs : (s.advance).regs = s.regs := rfl
@[simp] theorem State.advance_pc : (s.advance).pc = s.pc + 1 := rfl
@[simp] theorem State.advance_cr : (s.advance).cr = s.cr := rfl
@[simp] theorem State.advance_mem : (s.advance).mem = s.mem := rfl
@[simp] theorem State.advance_udo : (s.advance).udo = s.udo := rfl
@[simp] theorem State.advance_cfg : (s.advance).cfg = s.cfg := rfl

@[simp] theorem State.readReg_setCond (c : CondRegs) (r : RegCode) :
    (s.setCond c).readReg r = s.readReg r := by cases r <;> rfl
@[simp] theorem State.readReg_setPc (t : Word) (r : RegCode) :
    (s.setPc t).readReg r = s.readReg r := by cases r <;> rfl
@[simp] theorem State.readReg_setMem (m : Memory) (r : RegCode) :
    (s.setMem m).readReg r = s.readReg r := by cases r <;> rfl
@[simp] theorem State.readReg_advance (r : RegCode) :
    s.advance.readReg r = s.readReg r := by cases r <;> rfl

/-- A write of a register is read back whole. -/
@[simp] theorem State.readReg_writeReg_same (r : RegCode) (v : Word) :
    (s.writeReg r v).readReg r = v := by
  cases r <;> simp [State.readReg, writeGpr, writeUdo]

/-- A write of a register leaves every other register alone. -/
theorem State.readReg_writeReg_other {r r' : RegCode} (v : Word) (h : r' ≠ r) :
    (s.writeReg r v).readReg r' = s.readReg r' := by
  cases r with
  | gpr n =>
    cases r' with
    | gpr k =>
      have hk : n.val ≠ k.val := fun e => h (by rw [Fin.ext e])
      simp [State.readReg, writeGpr, Vector.getElem_set_ne, hk]
    | udo k => simp [State.readReg, writeUdo]
  | udo n =>
    cases r' with
    | gpr k => simp [State.readReg, writeGpr]
    | udo k =>
      have hk : n.val ≠ k.val := fun e => h (by rw [Fin.ext e])
      simp [State.readReg, writeUdo, Vector.getElem_set_ne, hk]

end Sys2Proof.Machine
end

