-- ==== Sys2Proof/Laws/Exec.lean ====
section
/-! SUPPORT. One lemma for each operation that meanings share: what it can answer, and when. -/

namespace Sys2Proof.Machine

open Sys2Proof

/-- No operand is turned away exactly when the machine gives all of them a meaning. -/
theorem firstUnusable_eq_none (m : UdoMode) (rs : List RegCode) :
    firstUnusable m rs = none ↔ rs.all (RegCode.usable m) = true := by
  induction rs with
  | nil => simp [firstUnusable]
  | cons r rs ih =>
    by_cases h : RegCode.usable m r = true <;> simp [firstUnusable, h, ih]

/-- The operand turned away is one of those checked, has no meaning, and all before it have one. -/
theorem firstUnusable_eq_some {m : UdoMode} {rs : List RegCode} {r : RegCode}
    (h : firstUnusable m rs = some r) :
    ∃ before after, rs = before ++ r :: after ∧ before.all (RegCode.usable m) = true ∧
      RegCode.usable m r = false := by
  induction rs with
  | nil => simp [firstUnusable] at h
  | cons q rs ih =>
    by_cases hq : RegCode.usable m q = true
    · simp only [firstUnusable, hq, if_true] at h
      obtain ⟨before, after, rfl, hb, hr⟩ := ih h
      exact ⟨q :: before, after, rfl, by simp [hq, hb], hr⟩
    · simp only [firstUnusable, hq] at h
      obtain rfl := Option.some.inj h
      exact ⟨[], rs, rfl, rfl, by simpa using hq⟩

/-- An operand without a meaning is an undefined operand, on a machine that refuses them. -/
theorem RegCode.usable_eq_false {m : UdoMode} {r : RegCode} (h : RegCode.usable m r = false) :
    m = .refuse ∧ ∃ n, r = .udo n := by
  cases m <;> cases r <;> simp_all [RegCode.usable, RegCode.isGpr]

/-- When every operand has a meaning the instruction takes its effect. -/
theorem withOperands_of_allows {rs : List RegCode} {s : State} (f : State → State)
    (h : s.allows rs = true) : withOperands rs s f = .next (f s) := by
  have := (firstUnusable_eq_none s.cfg.udoMode rs).2 h
  simp [withOperands, this]

/-- A next state is the instruction's effect, and every operand had a meaning. -/
theorem withOperands_eq_next {rs : List RegCode} {s t : State} {f : State → State}
    (h : withOperands rs s f = .next t) : s.allows rs = true ∧ t = f s := by
  unfold withOperands at h
  split at h
  · cases h
  · next hn =>
    cases h
    exact ⟨(firstUnusable_eq_none _ _).1 hn, rfl⟩

/-- A refusal is of an undefined operand among those checked, on a machine that refuses them. -/
theorem withOperands_eq_refused {rs : List RegCode} {s : State} {f : State → State} {q : Refusal}
    (h : withOperands rs s f = .refused q) :
    s.cfg.udoMode = .refuse ∧
      ∃ n, RegCode.udo n ∈ rs ∧ q = .undefinedOperand (RegCode.udo n).bits := by
  unfold withOperands at h
  split at h
  · next r hr =>
    cases h
    obtain ⟨before, after, rfl, -, hu⟩ := firstUnusable_eq_some hr
    obtain ⟨hm, n, rfl⟩ := RegCode.usable_eq_false hu
    exact ⟨hm, n, by simp, rfl⟩
  · cases h

theorem binaryOp_eq_next {f : Word → Word → Word} {d a b : RegCode} {s t : State}
    (h : binaryOp f d a b s = .next t) :
    s.allows [d, a, b] = true ∧ t = (s.writeReg d (f (s.readReg a) (s.readReg b))).advance :=
  withOperands_eq_next h

theorem shiftOp_eq_next {f : Word → Nibble → Word} {d a : RegCode} {n : Nibble} {s t : State}
    (h : shiftOp f d a n s = .next t) :
    s.allows [d, a] = true ∧ t = (s.writeReg d (f (s.readReg a) n)).advance :=
  withOperands_eq_next h

theorem immediateOp_eq_next {f : Word → Byte → Word} {d : RegCode} {imm : Byte} {s t : State}
    (h : immediateOp f d imm s = .next t) :
    s.allows [d] = true ∧ t = (s.writeReg d (f (s.readReg d) imm)).advance :=
  withOperands_eq_next h

theorem branchIf_eq_next {taken : Bool} {off : Byte} {s t : State} (h : branchIf taken off s = .next t) :
    t = s.setPc (if taken then branchTarget s.cfg.brOffsetSigned s.pc off else s.pc + 1) := by
  cases h; rfl

theorem nop_eq_next {s t : State} (h : nop s = .next t) : t = s.advance := by
  cases h; rfl

end Sys2Proof.Machine
end

