-- ==== Sys2Proof/Laws/Instructions.lean ====
section
/-! SUPPORT. What each instruction is, as one equation, and what every instruction has in common. -/

namespace Sys2Proof.Machine

open Sys2Proof

variable (s : State)

theorem exec_add (d a b : RegCode) : exec (.add d a b) s =
    withOperands [d, a, b] s fun s => (s.writeReg d (s.readReg a + s.readReg b)).advance := rfl
theorem exec_sub (d a b : RegCode) : exec (.sub d a b) s =
    withOperands [d, a, b] s fun s => (s.writeReg d (s.readReg a - s.readReg b)).advance := rfl
theorem exec_and (d a b : RegCode) : exec (.and d a b) s =
    withOperands [d, a, b] s fun s => (s.writeReg d (s.readReg a &&& s.readReg b)).advance := rfl
theorem exec_or (d a b : RegCode) : exec (.or d a b) s =
    withOperands [d, a, b] s fun s => (s.writeReg d (s.readReg a ||| s.readReg b)).advance := rfl
theorem exec_nand (d a b : RegCode) : exec (.nand d a b) s =
    withOperands [d, a, b] s fun s => (s.writeReg d (~~~(s.readReg a &&& s.readReg b))).advance := rfl
theorem exec_sla (d a : RegCode) (n : Nibble) : exec (.sla d a n) s =
    withOperands [d, a] s fun t => (t.writeReg d (shiftLeftArith s.cfg.slaFill (t.readReg a) n)).advance := rfl
theorem exec_sra (d a : RegCode) (n : Nibble) : exec (.sra d a n) s =
    withOperands [d, a] s fun s => (s.writeReg d (asr (s.readReg a) n)).advance := rfl
theorem exec_ld (d a : RegCode) : exec (.ld d a) s =
    withOperands [d, a] s fun s =>
      (s.writeReg d (Memory.readWord s.mem (effectiveAddress s a))).advance := rfl
theorem exec_st (c a : RegCode) : exec (.st c a) s =
    withOperands [c, a] s fun s =>
      (s.setMem (Memory.writeWord s.mem (effectiveAddress s a) (s.readReg c))).advance := rfl
theorem exec_lil (d : RegCode) (imm : Byte) : exec (.lil d imm) s =
    withOperands [d] s fun s => (s.writeReg d (setLow (s.readReg d) imm)).advance := rfl
theorem exec_lih (d : RegCode) (imm : Byte) : exec (.lih d imm) s =
    withOperands [d] s fun s => (s.writeReg d (setHigh (s.readReg d) imm)).advance := rfl
theorem exec_cmp (u : Nibble) (a b : RegCode) : exec (.cmp u a b) s =
    withOperands [a, b] s fun s =>
      (s.setCond (compareFlags s.cfg.cmpMode (s.readReg a) (s.readReg b))).advance := rfl
theorem exec_brn (off : Byte) : exec (.brn off) s = branchIf s.cr.crn off s := rfl
theorem exec_brz (off : Byte) : exec (.brz off) s = branchIf s.cr.crz off s := rfl
theorem exec_brp (off : Byte) : exec (.brp off) s = branchIf s.cr.crp off s := rfl
theorem exec_jmp (off : Byte) : exec (.jmp off) s = branchIf true off s := rfl

/-- Every NOP is the one operation `nop`. -/
theorem exec_of_isNop {i : Instr} (h : i.isNop = true) : exec i s = nop s := by
  cases i <;> first | rfl | cases h

/-- Every UDI is refused with its opcode. -/
theorem exec_of_isUdi {i : Instr} (h : i.isUdi = true) :
    exec i s = .refused (.undefinedInstruction i.opcode) := by
  cases i <;> first | rfl | cases h

/-- Every other instruction has an effect, behind the check of its own register fields. -/
theorem exec_of_not_isUdi {i : Instr} (h : i.isUdi = false) :
    ∃ f : State → State, exec i s = withOperands i.regFields s f := by
  cases i
  case add => exact ⟨_, exec_add s _ _ _⟩
  case sub => exact ⟨_, exec_sub s _ _ _⟩
  case and => exact ⟨_, exec_and s _ _ _⟩
  case or => exact ⟨_, exec_or s _ _ _⟩
  case nand => exact ⟨_, exec_nand s _ _ _⟩
  case sla => exact ⟨_, exec_sla s _ _ _⟩
  case sra => exact ⟨_, exec_sra s _ _ _⟩
  case ld => exact ⟨_, exec_ld s _ _⟩
  case st => exact ⟨_, exec_st s _ _⟩
  case lil => exact ⟨_, exec_lil s _ _⟩
  case lih => exact ⟨_, exec_lih s _ _⟩
  case cmp => exact ⟨_, exec_cmp s _ _ _⟩
  case brn off =>
    exact ⟨fun s => s.setPc (if s.cr.crn then branchTarget s.cfg.brOffsetSigned s.pc off else s.pc + 1), rfl⟩
  case brz off =>
    exact ⟨fun s => s.setPc (if s.cr.crz then branchTarget s.cfg.brOffsetSigned s.pc off else s.pc + 1), rfl⟩
  case brp off =>
    exact ⟨fun s => s.setPc (if s.cr.crp then branchTarget s.cfg.brOffsetSigned s.pc off else s.pc + 1), rfl⟩
  case jmp off =>
    exact ⟨fun s => s.setPc (if true then branchTarget s.cfg.brOffsetSigned s.pc off else s.pc + 1), rfl⟩
  case udi1100 => cases h
  case udi1101 => cases h
  case udi1110 => cases h
  case udi1111 => cases h
  all_goals exact ⟨State.advance, rfl⟩

/-- What a completed instruction can have done: every register field it uses had a meaning, and it wrote
one of those registers, or stored to one location (ST), or wrote the condition registers (CMP), or moved
the pc only (a branch or a NOP). -/
theorem exec_eq_next_cases {i : Instr} {s t : State} (h : exec i s = .next t) :
    s.allows i.regFields = true ∧
    ((∃ d v, d ∈ i.regFields ∧ t = (s.writeReg d v).advance) ∨
     (∃ c a, i = .st c a ∧
        t = (s.setMem (Memory.writeWord s.mem (effectiveAddress s a) (s.readReg c))).advance) ∨
     (∃ u a b, i = .cmp u a b ∧
        t = (s.setCond (compareFlags s.cfg.cmpMode (s.readReg a) (s.readReg b))).advance) ∨
     ∃ target, t = s.setPc target) := by
  cases i
  case add d a b =>
    obtain ⟨ha, rfl⟩ := withOperands_eq_next (exec_add s d a b ▸ h)
    exact ⟨ha, .inl ⟨d, _, by simp [Instr.regFields], rfl⟩⟩
  case sub d a b =>
    obtain ⟨ha, rfl⟩ := withOperands_eq_next (exec_sub s d a b ▸ h)
    exact ⟨ha, .inl ⟨d, _, by simp [Instr.regFields], rfl⟩⟩
  case and d a b =>
    obtain ⟨ha, rfl⟩ := withOperands_eq_next (exec_and s d a b ▸ h)
    exact ⟨ha, .inl ⟨d, _, by simp [Instr.regFields], rfl⟩⟩
  case or d a b =>
    obtain ⟨ha, rfl⟩ := withOperands_eq_next (exec_or s d a b ▸ h)
    exact ⟨ha, .inl ⟨d, _, by simp [Instr.regFields], rfl⟩⟩
  case nand d a b =>
    obtain ⟨ha, rfl⟩ := withOperands_eq_next (exec_nand s d a b ▸ h)
    exact ⟨ha, .inl ⟨d, _, by simp [Instr.regFields], rfl⟩⟩
  case sla d a n =>
    obtain ⟨ha, rfl⟩ := withOperands_eq_next (exec_sla s d a n ▸ h)
    exact ⟨ha, .inl ⟨d, _, by simp [Instr.regFields], rfl⟩⟩
  case sra d a n =>
    obtain ⟨ha, rfl⟩ := withOperands_eq_next (exec_sra s d a n ▸ h)
    exact ⟨ha, .inl ⟨d, _, by simp [Instr.regFields], rfl⟩⟩
  case ld d a =>
    obtain ⟨ha, rfl⟩ := withOperands_eq_next (exec_ld s d a ▸ h)
    exact ⟨ha, .inl ⟨d, _, by simp [Instr.regFields], rfl⟩⟩
  case lil d imm =>
    obtain ⟨ha, rfl⟩ := withOperands_eq_next (exec_lil s d imm ▸ h)
    exact ⟨ha, .inl ⟨d, _, by simp [Instr.regFields], rfl⟩⟩
  case lih d imm =>
    obtain ⟨ha, rfl⟩ := withOperands_eq_next (exec_lih s d imm ▸ h)
    exact ⟨ha, .inl ⟨d, _, by simp [Instr.regFields], rfl⟩⟩
  case st c a =>
    obtain ⟨ha, rfl⟩ := withOperands_eq_next (exec_st s c a ▸ h)
    exact ⟨ha, .inr (.inl ⟨c, a, rfl, rfl⟩)⟩
  case cmp u a b =>
    obtain ⟨ha, rfl⟩ := withOperands_eq_next (exec_cmp s u a b ▸ h)
    exact ⟨ha, .inr (.inr (.inl ⟨u, a, b, rfl, rfl⟩))⟩
  case brn off => exact ⟨rfl, .inr (.inr (.inr ⟨_, branchIf_eq_next (exec_brn s off ▸ h)⟩))⟩
  case brz off => exact ⟨rfl, .inr (.inr (.inr ⟨_, branchIf_eq_next (exec_brz s off ▸ h)⟩))⟩
  case brp off => exact ⟨rfl, .inr (.inr (.inr ⟨_, branchIf_eq_next (exec_brp s off ▸ h)⟩))⟩
  case jmp off => exact ⟨rfl, .inr (.inr (.inr ⟨_, branchIf_eq_next (exec_jmp s off ▸ h)⟩))⟩
  case udi1100 => cases h
  case udi1101 => cases h
  case udi1110 => cases h
  case udi1111 => cases h
  all_goals exact ⟨rfl, .inr (.inr (.inr ⟨_, nop_eq_next h⟩))⟩

end Sys2Proof.Machine
end

