-- ==== Sys2Proof/Laws/PerInstr.lean ====
section
/-! SUPPORT. A statement about every instruction as syntax, one lemma for each constructor: the encoder
writes the instruction's opcode in bits 15:12 (30_encoding.md R61, R84). -/

namespace Sys2Proof.Laws.EncodeKeepsOpcode

open Sys2Proof

/-- Bits 15:12 of the instruction's word are its opcode. -/
def Statement (i : Instr) : Prop := (encode i).extractLsb' 12 4 = i.opcode

theorem packNibbles_opcode (op c a b : Nibble) : (packNibbles op c a b).extractLsb' 12 4 = op := by
  ext i hi
  rw [packNibbles, BitVec.getElem_extractLsb', BitVec.getLsbD_cast, BitVec.getLsbD_append,
    BitVec.getLsbD_append, BitVec.getLsbD_append]
  simp [BitVec.getLsbD_eq_getElem hi, show ¬ 12 + i < 4 by omega, show ¬ 12 + i - 4 < 4 by omega,
    show ¬ 12 + i - 4 - 4 < 4 by omega, show 12 + i - 4 - 4 - 4 = i by omega]

theorem packByte_opcode (op c : Nibble) (imm : Byte) : (packByte op c imm).extractLsb' 12 4 = op := by
  ext i hi
  rw [packByte, BitVec.getElem_extractLsb', BitVec.getLsbD_cast, BitVec.getLsbD_append,
    BitVec.getLsbD_append]
  simp [BitVec.getLsbD_eq_getElem hi, show ¬ 12 + i < 8 by omega, show ¬ 12 + i - 8 < 4 by omega,
    show 12 + i - 8 - 4 = i by omega]

theorem packMem_opcode (x : Byte) (mode : Nibble) : (packMem x mode).extractLsb' 12 4 = 0b0111#4 := by
  ext i hi
  rw [packMem, BitVec.getElem_extractLsb', BitVec.getLsbD_cast, BitVec.getLsbD_append,
    BitVec.getLsbD_append]
  simp [BitVec.getLsbD_eq_getElem hi, show ¬ 12 + i < 4 by omega, show ¬ 12 + i - 4 < 8 by omega,
    show 12 + i - 4 - 8 = i by omega]

theorem packUdi_opcode (op : Nibble) (bits : BitVec 12) : (packUdi op bits).extractLsb' 12 4 = op := by
  ext i hi
  rw [packUdi, BitVec.getElem_extractLsb', BitVec.getLsbD_cast, BitVec.getLsbD_append]
  simp [BitVec.getLsbD_eq_getElem hi]

theorem add (d a b : RegCode) : Statement (.add d a b) := packNibbles_opcode _ _ _ _
theorem sub (d a b : RegCode) : Statement (.sub d a b) := packNibbles_opcode _ _ _ _
theorem and (d a b : RegCode) : Statement (.and d a b) := packNibbles_opcode _ _ _ _
theorem or (d a b : RegCode) : Statement (.or d a b) := packNibbles_opcode _ _ _ _
theorem nand (d a b : RegCode) : Statement (.nand d a b) := packNibbles_opcode _ _ _ _
theorem sla (d a : RegCode) (n : Nibble) : Statement (.sla d a n) := packNibbles_opcode _ _ _ _
theorem sra (d a : RegCode) (n : Nibble) : Statement (.sra d a n) := packNibbles_opcode _ _ _ _
theorem ld (d a : RegCode) : Statement (.ld d a) := packNibbles_opcode _ _ _ _
theorem st (d a : RegCode) : Statement (.st d a) := packNibbles_opcode _ _ _ _
theorem nopMem0000 (x : Byte) : Statement (.nopMem0000 x) := packMem_opcode _ _
theorem nopMem0001 (x : Byte) : Statement (.nopMem0001 x) := packMem_opcode _ _
theorem nopMem0010 (x : Byte) : Statement (.nopMem0010 x) := packMem_opcode _ _
theorem nopMem0011 (x : Byte) : Statement (.nopMem0011 x) := packMem_opcode _ _
theorem nopMem0100 (x : Byte) : Statement (.nopMem0100 x) := packMem_opcode _ _
theorem nopMem0101 (x : Byte) : Statement (.nopMem0101 x) := packMem_opcode _ _
theorem nopMem0111 (x : Byte) : Statement (.nopMem0111 x) := packMem_opcode _ _
theorem nopMem1000 (x : Byte) : Statement (.nopMem1000 x) := packMem_opcode _ _
theorem nopMem1010 (x : Byte) : Statement (.nopMem1010 x) := packMem_opcode _ _
theorem nopMem1011 (x : Byte) : Statement (.nopMem1011 x) := packMem_opcode _ _
theorem nopMem1100 (x : Byte) : Statement (.nopMem1100 x) := packMem_opcode _ _
theorem nopMem1101 (x : Byte) : Statement (.nopMem1101 x) := packMem_opcode _ _
theorem nopMem1110 (x : Byte) : Statement (.nopMem1110 x) := packMem_opcode _ _
theorem nopMem1111 (x : Byte) : Statement (.nopMem1111 x) := packMem_opcode _ _
theorem lil (d : RegCode) (imm : Byte) : Statement (.lil d imm) := packByte_opcode _ _ _
theorem lih (d : RegCode) (imm : Byte) : Statement (.lih d imm) := packByte_opcode _ _ _
theorem cmp (u : Nibble) (a b : RegCode) : Statement (.cmp u a b) := packNibbles_opcode _ _ _ _
theorem brn (off : Byte) : Statement (.brn off) := packByte_opcode _ _ _
theorem brz (off : Byte) : Statement (.brz off) := packByte_opcode _ _ _
theorem brp (off : Byte) : Statement (.brp off) := packByte_opcode _ _ _
theorem jmp (off : Byte) : Statement (.jmp off) := packByte_opcode _ _ _
theorem nopBr0000 (x : Byte) : Statement (.nopBr0000 x) := packByte_opcode _ _ _
theorem nopBr0001 (x : Byte) : Statement (.nopBr0001 x) := packByte_opcode _ _ _
theorem nopBr0010 (x : Byte) : Statement (.nopBr0010 x) := packByte_opcode _ _ _
theorem nopBr0011 (x : Byte) : Statement (.nopBr0011 x) := packByte_opcode _ _ _
theorem nopBr0100 (x : Byte) : Statement (.nopBr0100 x) := packByte_opcode _ _ _
theorem nopBr0101 (x : Byte) : Statement (.nopBr0101 x) := packByte_opcode _ _ _
theorem nopBr1010 (x : Byte) : Statement (.nopBr1010 x) := packByte_opcode _ _ _
theorem nopBr1011 (x : Byte) : Statement (.nopBr1011 x) := packByte_opcode _ _ _
theorem nopBr1100 (x : Byte) : Statement (.nopBr1100 x) := packByte_opcode _ _ _
theorem nopBr1101 (x : Byte) : Statement (.nopBr1101 x) := packByte_opcode _ _ _
theorem nopBr1110 (x : Byte) : Statement (.nopBr1110 x) := packByte_opcode _ _ _
theorem nopBr1111 (x : Byte) : Statement (.nopBr1111 x) := packByte_opcode _ _ _
theorem udi1100 (bits : BitVec 12) : Statement (.udi1100 bits) := packUdi_opcode _ _
theorem udi1101 (bits : BitVec 12) : Statement (.udi1101 bits) := packUdi_opcode _ _
theorem udi1110 (bits : BitVec 12) : Statement (.udi1110 bits) := packUdi_opcode _ _
theorem udi1111 (bits : BitVec 12) : Statement (.udi1111 bits) := packUdi_opcode _ _

end Sys2Proof.Laws.EncodeKeepsOpcode
end

