-- ==== Sys2Proof/Machine/Asm.lean ====
section
/-! DEFINITION. The assembler syntax of the source's examples (30_encoding.md R78, R79, R83) and of this
spec's own listings (decision D21). It is no part of the core: it says which word a line stands for. -/

namespace Sys2Proof.Machine

open Sys2Proof

/-- The line without its comment, which runs from `#` to the end (30_encoding.md R78). -/
def stripComment (line : List Char) : List Char := line.takeWhile (fun c => c ≠ '#')

/-- The words of a line, separated by spaces (30_encoding.md R78); `cur` is the word being read. -/
def splitWords : List Char → List Char → List (List Char)
  | cur, [] => if cur.isEmpty then [] else [cur]
  | cur, c :: cs =>
    if c = ' ' then
      if cur.isEmpty then splitWords [] cs else cur :: splitWords [] cs
    else splitWords (cur ++ [c]) cs

/-- The value of a digit in a number base up to 16, hexadecimal letters in capitals. -/
def digitValue (base : Nat) (c : Char) : Option Nat :=
  let n := c.toNat
  let v := if 48 ≤ n ∧ n ≤ 57 then some (n - 48) else if 65 ≤ n ∧ n ≤ 70 then some (n - 55) else none
  v.filter (fun d => d < base)

/-- The value of a non-empty string of digits, most significant first (00_scope.md R8). -/
def digitsValue (base : Nat) : List Char → Option Nat
  | [] => none
  | cs => cs.foldl (fun acc c => do
      let a ← acc
      let d ← digitValue base c
      return a * base + d) (some 0)

/-- `0xHH` or `0b…` (00_scope.md R8; 30_encoding.md R83, decision D21). -/
def prefixedValue : List Char → Option Nat
  | '0' :: 'x' :: cs => digitsValue 16 cs
  | '0' :: 'b' :: cs => digitsValue 2 cs
  | _ => none

/-- A register operand: `R0` to `R11`, and `U0` to `U3` in this spec's listings (30_encoding.md R78). -/
def parseReg : List Char → Option RegCode
  | 'R' :: cs => do
    let n ← digitsValue 10 cs
    if h : n < 12 then some (.gpr ⟨n, h⟩) else none
  | 'U' :: cs => do
    let n ← digitsValue 10 cs
    if h : n < 4 then some (.udo ⟨n, h⟩) else none
  | _ => none

/-- An 8-bit immediate: eight binary digits as in the source, or a prefixed number (30_encoding.md R83). -/
def parseImm (cs : List Char) : Option Byte := do
  let n ← if cs.length = 8 ∧ (digitsValue 2 cs).isSome then digitsValue 2 cs else prefixedValue cs
  if n < 256 then some (BitVec.ofNat 8 n) else none

/-- A shift count: a decimal number 0 to 15 (30_encoding.md R79, R83). -/
def parseCount (cs : List Char) : Option Nibble := do
  let n ← digitsValue 10 cs
  if n < 16 then some (BitVec.ofNat 4 n) else none

/-- Label names and the addresses they stand for. -/
abbrev Symbols := List (List Char × Word)

/-- The OFFSET of a branch at address `b`: a label's (30_encoding.md R80), or `+n` or `-n` meaning n modulo
256, from -128 to +127 (30_encoding.md R83; log 28). -/
def parseOffset (syms : Symbols) (b : Word) : List Char → Option Byte
  | '+' :: cs => do
    let n ← digitsValue 10 cs
    if n ≤ 127 then some (BitVec.ofNat 8 n) else none
  | '-' :: cs => do
    let n ← digitsValue 10 cs
    if n ≤ 128 then some (BitVec.ofNat 8 (256 - n)) else none
  | name => do
    let l ← syms.lookup name
    labelOffset b l

/-- A three-register line (30_encoding.md R79). -/
def parseR3 (mk : RegCode → RegCode → RegCode → Instr) : List (List Char) → Option Instr
  | [d, a, b] => do return mk (← parseReg d) (← parseReg a) (← parseReg b)
  | _ => none

/-- A line of two registers (30_encoding.md R79). -/
def parseR2 (mk : RegCode → RegCode → Instr) : List (List Char) → Option Instr
  | [d, a] => do return mk (← parseReg d) (← parseReg a)
  | _ => none

/-- A shift line (30_encoding.md R79). -/
def parseShift (mk : RegCode → RegCode → Nibble → Instr) : List (List Char) → Option Instr
  | [d, a, n] => do return mk (← parseReg d) (← parseReg a) (← parseCount n)
  | _ => none

/-- An immediate line (30_encoding.md R79). -/
def parseImmLine (mk : RegCode → Byte → Instr) : List (List Char) → Option Instr
  | [d, i] => do return mk (← parseReg d) (← parseImm i)
  | _ => none

/-- A branch line (30_encoding.md R79, R80). -/
def parseBranch (syms : Symbols) (b : Word) (mk : Byte → Instr) : List (List Char) → Option Instr
  | [o] => do return mk (← parseOffset syms b o)
  | _ => none

/-- The instruction that the words of a line at address `b` stand for: the mnemonic in capitals, then its
operands from bit 11 down (30_encoding.md R78, R79). MODE is the mnemonic's, never written. `NOP` is this
spec's name for 0x7000 (30_encoding.md R75, decision D28). -/
def parseInstr (syms : Symbols) (b : Word) : List (List Char) → Option Instr
  | [] => none
  | m :: ops =>
    if m = ['A', 'D', 'D'] then parseR3 .add ops
    else if m = ['S', 'U', 'B'] then parseR3 .sub ops
    else if m = ['A', 'N', 'D'] then parseR3 .and ops
    else if m = ['O', 'R'] then parseR3 .or ops
    else if m = ['N', 'A', 'N', 'D'] then parseR3 .nand ops
    else if m = ['S', 'L', 'A'] then parseShift .sla ops
    else if m = ['S', 'R', 'A'] then parseShift .sra ops
    else if m = ['L', 'D'] then parseR2 .ld ops
    else if m = ['S', 'T'] then parseR2 .st ops
    else if m = ['L', 'I', 'L'] then parseImmLine .lil ops
    else if m = ['L', 'I', 'H'] then parseImmLine .lih ops
    else if m = ['C', 'M', 'P'] then parseR2 (.cmp 0) ops
    else if m = ['B', 'R', 'N'] then parseBranch syms b .brn ops
    else if m = ['B', 'R', 'Z'] then parseBranch syms b .brz ops
    else if m = ['B', 'R', 'P'] then parseBranch syms b .brp ops
    else if m = ['J', 'M', 'P'] then parseBranch syms b .jmp ops
    else if m = ['N', 'O', 'P'] then if ops.isEmpty then some (.nopMem0000 0) else none
    else none

/-- The word a line at address `b` places: an instruction's (30_encoding.md R84), or the data word of
`.WORD 0xHHHH` (30_encoding.md R78, decision D21). -/
def assembleWords (syms : Symbols) (b : Word) : List (List Char) → Option Word
  | ['.', 'W', 'O', 'R', 'D'] :: ops =>
    match ops with
    | [v] => do
      let n ← prefixedValue v
      if n < 65536 then some (BitVec.ofNat 16 n) else none
    | _ => none
  | ws => (parseInstr syms b ws).map assemble

/-- The label a line defines, if its first word is `NAME:`, and the rest of its words (30_encoding.md R78,
decision D21). -/
def splitLabel : List (List Char) → Option (List Char) × List (List Char)
  | [] => (none, [])
  | w :: ws => if w.getLast? = some ':' then (some w.dropLast, ws) else (none, w :: ws)

/-- Pass one: the address of every label, each line that holds a word taking one location. -/
def collectLabels : Word → List (List (List Char)) → Symbols
  | _, [] => []
  | b, line :: rest =>
    let (label, ws) := splitLabel line
    let later := collectLabels (if ws.isEmpty then b else b + 1) rest
    match label with
    | some name => (name, b) :: later
    | none => later

/-- Pass two: the words of the lines, from address `b` on. -/
def assembleLines (syms : Symbols) : Word → List (List (List Char)) → Option (List Word)
  | _, [] => some []
  | b, line :: rest =>
    let ws := (splitLabel line).2
    if ws.isEmpty then assembleLines syms b rest
    else do
      let w ← assembleWords syms b ws
      let more ← assembleLines syms (b + 1) rest
      return w :: more

/-- The words of a program that starts at address 0 (30_encoding.md R78); none if a line stands for no
word, if a label is defined twice, or if the program exceeds the address space
(70_reset_and_hazards.md R203). -/
def assembleProgram (lines : List (List Char)) : Option (List Word) :=
  let ls := lines.map (fun l => splitWords [] (stripComment l))
  let syms := collectLabels 0 ls
  if (syms.map Prod.fst).Nodup then
    (assembleLines syms 0 ls).filter (fun ws => ws.length ≤ 65536)
  else none

end Sys2Proof.Machine
end

