-- ==== Sys2Proof/Tests/Slice0.lean ====
section
/-! SUPPORT. The model's own tests. Expected words and values are those of 95_test_vectors.md (Parts 1 to 3)
and of the encoding tables of 30_encoding.md; each group names its source. -/

namespace Sys2Proof.Tests

open Sys2Proof Sys2Proof.Machine

/-! ## Well-formedness: a term for each check, which the check refuses (47_undefined.md R174) -/

theorem test_wf_accepts_highest_registers :
    (Instr.add (.gpr 11) (.gpr 11) (.gpr 11)).wellFormed = true := by decide
theorem test_wf_refuses_undefined_destination :
    (Instr.add (.udo 0) (.gpr 0) (.gpr 0)).wellFormed = false := by decide
theorem test_wf_refuses_undefined_source_one :
    (Instr.nand (.gpr 0) (.udo 0) (.gpr 0)).wellFormed = false := by decide
theorem test_wf_refuses_undefined_source_two :
    (Instr.sub (.gpr 0) (.gpr 0) (.udo 3)).wellFormed = false := by decide
theorem test_wf_refuses_undefined_shift_source :
    (Instr.sra (.gpr 0) (.udo 2) 1).wellFormed = false := by decide
theorem test_wf_accepts_count_of_twelve : (Instr.sla (.gpr 2) (.gpr 1) 12).wellFormed = true := by decide
theorem test_wf_refuses_undefined_address : (Instr.st (.gpr 0) (.udo 0)).wellFormed = false := by decide
theorem test_wf_refuses_undefined_load_destination :
    (Instr.ld (.udo 0) (.gpr 0)).wellFormed = false := by decide
theorem test_wf_refuses_undefined_immediate_destination :
    (Instr.lil (.udo 0) 0).wellFormed = false := by decide
theorem test_wf_refuses_undefined_comparand : (Instr.cmp 0 (.gpr 0) (.udo 1)).wellFormed = false := by
  decide
theorem test_wf_accepts_any_unused_cmp_bits :
    (Instr.cmp 15 (.gpr 5) (.gpr 6)).wellFormed = true := by decide
theorem test_wf_refuses_udi : (Instr.udi1100 0x123).wellFormed = false := by decide

/-! ## Decoding: a word written out from 30_encoding.md R62 to R73 for every constructor -/

theorem test_decode_add : decodeTableWord 16 0b0000_0111_0101_0110 = some (.add (.gpr 7) (.gpr 5) (.gpr 6)) := by decide
theorem test_decode_sub : decodeTableWord 16 0b0001_0111_0101_0110 = some (.sub (.gpr 7) (.gpr 5) (.gpr 6)) := by decide
theorem test_decode_and : decodeTableWord 16 0b0010_0111_0101_0110 = some (.and (.gpr 7) (.gpr 5) (.gpr 6)) := by decide
theorem test_decode_or : decodeTableWord 16 0b0011_0111_0101_0110 = some (.or (.gpr 7) (.gpr 5) (.gpr 6)) := by decide
theorem test_decode_nand : decodeTableWord 16 0b0100_0111_0101_0110 = some (.nand (.gpr 7) (.gpr 5) (.gpr 6)) := by decide
theorem test_decode_sla : decodeTableWord 16 0b0101_0111_0101_0110 = some (.sla (.gpr 7) (.gpr 5) 6) := by decide
theorem test_decode_sra : decodeTableWord 16 0b0110_0111_0101_0110 = some (.sra (.gpr 7) (.gpr 5) 6) := by decide
theorem test_decode_ld : decodeTableWord 16 0b0111_0111_0101_0110 = some (.ld (.gpr 7) (.gpr 5)) := by decide
theorem test_decode_st : decodeTableWord 16 0b0111_0111_0101_1001 = some (.st (.gpr 7) (.gpr 5)) := by decide
theorem test_decode_nopMem0000 : decodeTableWord 16 0b0111_1100_0011_0000 = some (.nopMem0000 0b11000011) := by decide
theorem test_decode_nopMem0001 : decodeTableWord 16 0b0111_1100_0011_0001 = some (.nopMem0001 0b11000011) := by decide
theorem test_decode_nopMem0010 : decodeTableWord 16 0b0111_1100_0011_0010 = some (.nopMem0010 0b11000011) := by decide
theorem test_decode_nopMem0011 : decodeTableWord 16 0b0111_1100_0011_0011 = some (.nopMem0011 0b11000011) := by decide
theorem test_decode_nopMem0100 : decodeTableWord 16 0b0111_1100_0011_0100 = some (.nopMem0100 0b11000011) := by decide
theorem test_decode_nopMem0101 : decodeTableWord 16 0b0111_1100_0011_0101 = some (.nopMem0101 0b11000011) := by decide
theorem test_decode_nopMem0111 : decodeTableWord 16 0b0111_1100_0011_0111 = some (.nopMem0111 0b11000011) := by decide
theorem test_decode_nopMem1000 : decodeTableWord 16 0b0111_1100_0011_1000 = some (.nopMem1000 0b11000011) := by decide
theorem test_decode_nopMem1010 : decodeTableWord 16 0b0111_1100_0011_1010 = some (.nopMem1010 0b11000011) := by decide
theorem test_decode_nopMem1011 : decodeTableWord 16 0b0111_1100_0011_1011 = some (.nopMem1011 0b11000011) := by decide
theorem test_decode_nopMem1100 : decodeTableWord 16 0b0111_1100_0011_1100 = some (.nopMem1100 0b11000011) := by decide
theorem test_decode_nopMem1101 : decodeTableWord 16 0b0111_1100_0011_1101 = some (.nopMem1101 0b11000011) := by decide
theorem test_decode_nopMem1110 : decodeTableWord 16 0b0111_1100_0011_1110 = some (.nopMem1110 0b11000011) := by decide
theorem test_decode_nopMem1111 : decodeTableWord 16 0b0111_1100_0011_1111 = some (.nopMem1111 0b11000011) := by decide
theorem test_decode_lil : decodeTableWord 16 0b1000_0111_01010110 = some (.lil (.gpr 7) 0x56) := by decide
theorem test_decode_lih : decodeTableWord 16 0b1001_0111_01010110 = some (.lih (.gpr 7) 0x56) := by decide
theorem test_decode_cmp : decodeTableWord 16 0b1010_1111_0101_0110 = some (.cmp 0b1111 (.gpr 5) (.gpr 6)) := by decide
theorem test_decode_brn : decodeTableWord 16 0b1011_0110_01010110 = some (.brn 0x56) := by decide
theorem test_decode_brz : decodeTableWord 16 0b1011_0111_01010110 = some (.brz 0x56) := by decide
theorem test_decode_brp : decodeTableWord 16 0b1011_1000_01010110 = some (.brp 0x56) := by decide
theorem test_decode_jmp : decodeTableWord 16 0b1011_1001_01010110 = some (.jmp 0x56) := by decide
theorem test_decode_nopBr0000 : decodeTableWord 16 0b1011_0000_11000000 = some (.nopBr0000 0b11000000) := by decide
theorem test_decode_nopBr0001 : decodeTableWord 16 0b1011_0001_11000000 = some (.nopBr0001 0b11000000) := by decide
theorem test_decode_nopBr0010 : decodeTableWord 16 0b1011_0010_11000000 = some (.nopBr0010 0b11000000) := by decide
theorem test_decode_nopBr0011 : decodeTableWord 16 0b1011_0011_11000000 = some (.nopBr0011 0b11000000) := by decide
theorem test_decode_nopBr0100 : decodeTableWord 16 0b1011_0100_11000000 = some (.nopBr0100 0b11000000) := by decide
theorem test_decode_nopBr0101 : decodeTableWord 16 0b1011_0101_11000000 = some (.nopBr0101 0b11000000) := by decide
theorem test_decode_nopBr1010 : decodeTableWord 16 0b1011_1010_11000000 = some (.nopBr1010 0b11000000) := by decide
theorem test_decode_nopBr1011 : decodeTableWord 16 0b1011_1011_11000000 = some (.nopBr1011 0b11000000) := by decide
theorem test_decode_nopBr1100 : decodeTableWord 16 0b1011_1100_11000000 = some (.nopBr1100 0b11000000) := by decide
theorem test_decode_nopBr1101 : decodeTableWord 16 0b1011_1101_11000000 = some (.nopBr1101 0b11000000) := by decide
theorem test_decode_nopBr1110 : decodeTableWord 16 0b1011_1110_11000000 = some (.nopBr1110 0b11000000) := by decide
theorem test_decode_nopBr1111 : decodeTableWord 16 0b1011_1111_11000000 = some (.nopBr1111 0b11000000) := by decide
theorem test_decode_udi1100 : decodeTableWord 16 0b1100_000100100011 = some (.udi1100 0x123) := by decide
theorem test_decode_udi1101 : decodeTableWord 16 0b1101_000100100011 = some (.udi1101 0x123) := by decide
theorem test_decode_udi1110 : decodeTableWord 16 0b1110_000100100011 = some (.udi1110 0x123) := by decide
theorem test_decode_udi1111 : decodeTableWord 16 0b1111_000100100011 = some (.udi1111 0x123) := by decide

/-- V-DEC: the undefined operand codes are decoded as such. -/
theorem test_decode_undefined_operands :
    decodeWord 0x0C00#16 = .add (.udo 0) (.gpr 0) (.gpr 0) ∧
    decodeWord 0x000F#16 = .add (.gpr 0) (.gpr 0) (.udo 3) ∧
    decodeWord 0x0BBB#16 = .add (.gpr 11) (.gpr 11) (.gpr 11) := by decide

/-- 30_encoding.md R60: one byte is no instruction. -/
theorem test_decode_one_byte_is_truncated : decodeBytes [0x56#8] = .error .truncated := by rfl

/-- 30_encoding.md R84: CMP's word has 0000 in bits 11:8, and a NOP's is 0x7000. -/
theorem test_assemble_canonical :
    assemble (.cmp 0b1111 (.gpr 5) (.gpr 6)) = 0xA056#16 ∧ assemble (.nopBr1111 0xFF) = 0x7000#16 ∧
    assemble (.st (.gpr 7) (.gpr 5)) = 0x7759#16 := by decide

/-- 95_test_vectors.md, label arithmetic: from 0x0005 back to 0x0002, to itself, and out of reach. -/
theorem test_label_offsets :
    labelOffset 5 2 = some 0xFC#8 ∧ labelOffset 7 7 = some 0xFF#8 ∧ labelOffset 0 128 = some 0x7F#8 ∧
    labelOffset 0 129 = none ∧ labelOffset 127 0 = some 0x80#8 ∧ labelOffset 128 0 = none := by decide

/-! ## One step of each instruction (95_test_vectors.md Part 2) -/

/-- The reset state at an address, with registers, CRN CRZ CRP and locations set. -/
def setup (pc : Word) (regs : List (Fin 12 × Word)) (cr : CondRegs) (cells : List (Word × Word)) : State :=
  let s := regs.foldl (fun s p => s.writeReg (.gpr p.1) p.2) State.reset
  { s with pc := pc, cr := cr, mem := cells.foldl (fun m p => Memory.writeWord m p.1 p.2) s.mem }

def noFlags : CondRegs := ⟨false, false, false⟩

/-- A register after the word is fetched and run. -/
def regAfter (w : Nat) (s : State) (r : Fin 12) : Option Word :=
  match step (s.withFetchWord 16 w) with
  | .next t => some (t.readReg (.gpr r))
  | .fault _ => none
  | .refused _ => none

def pcAfter (w : Nat) (s : State) : Option Word :=
  match step (s.withFetchWord 16 w) with
  | .next t => some t.pc
  | .fault _ => none
  | .refused _ => none

def crAfter (w : Nat) (s : State) : Option CondRegs :=
  match step (s.withFetchWord 16 w) with
  | .next t => some t.cr
  | .fault _ => none
  | .refused _ => none

def locAfter (w : Nat) (s : State) (a : Word) : Option Word :=
  match step (s.withFetchWord 16 w) with
  | .next t => some (Memory.readWord t.mem a)
  | .fault _ => none
  | .refused _ => none

def refusalOf (w : Nat) (s : State) : Option Refusal :=
  match step (s.withFetchWord 16 w) with
  | .next _ => none
  | .fault _ => none
  | .refused r => some r

/-- Registers, with R5 and R6 set, at address 0. -/
def r56 (a b : Word) : State := setup 0 [(5, a), (6, b)] noFlags []

def r1 (a : Word) : State := setup 0 [(1, a)] noFlags []

theorem test_add_overflow_wraps : regAfter 0x0756 (r56 0x7FFF 0x0001) 7 = some 0x8000 := by decide
theorem test_add_same_register_thrice : regAfter 0x0111 (r1 0x4000) 1 = some 0x8000 := by decide
theorem test_sub_operand_order : regAfter 0x1756 (r56 0x0003 0x0005) 7 = some 0xFFFE := by decide
theorem test_sub_wraps : regAfter 0x1756 (r56 0x8000 0x0001) 7 = some 0x7FFF := by decide
theorem test_and : regAfter 0x2756 (r56 0xF0F0 0xFF00) 7 = some 0xF000 := by decide
theorem test_or : regAfter 0x3756 (r56 0xF0F0 0xFF00) 7 = some 0xFFF0 := by decide
theorem test_nand : regAfter 0x4756 (r56 0xF0F0 0xFF00) 7 = some 0x0FFF := by decide
theorem test_nand_not_idiom : regAfter 0x4756 (r56 0x1234 0xFFFF) 7 = some 0xEDCB := by decide
theorem test_sla_source_example : regAfter 0x5756 (r56 0x0123 0) 7 = some 0x48C0 := by decide
theorem test_sla_count_twelve : regAfter 0x521C (r1 0x000F) 2 = some 0xF000 := by decide
theorem test_sra_source_example : regAfter 0x6756 (r56 0x8123 0) 7 = some 0xFE04 := by decide
theorem test_sra_rounds_down : regAfter 0x6212 (r1 0xFFF1) 2 = some 0xFFFC := by decide

/-- V-SLA, the column under `SLA_FILL = lsb`. -/
theorem test_sla_lsb_fill :
    shiftLeftArith .lsb 0x0123 6 = 0x48FF#16 ∧ shiftLeftArith .lsb 0x0001 15 = 0xFFFF#16 ∧
    shiftLeftArith .lsb 0x000F 12 = 0xFFFF#16 ∧ shiftLeftArith .lsb 0x0011 3 = 0x008F#16 ∧
    shiftLeftArith .lsb 0xABCD 0 = 0xABCD#16 := by decide

theorem test_ld_highest_address :
    regAfter 0x7216 (setup 0 [(1, 0xFFFF)] noFlags [(0xFFFF, 0x00AA)]) 2 = some 0x00AA := by decide
theorem test_ld_into_its_address_register :
    regAfter 0x7556 (setup 0 [(5, 0x0020)] noFlags [(0x0020, 0x0030)]) 5 = some 0x0030 := by decide
theorem test_st_source_example :
    locAfter 0x7759 (setup 0 [(7, 0xCAFE), (5, 0x2000)] noFlags []) 0x2000 = some 0xCAFE := by decide
theorem test_st_replaces_whole_location :
    locAfter 0x7219 (setup 0 [(1, 0xFFFF)] noFlags [(0xFFFF, 0x1234)]) 0xFFFF = some 0 := by decide
theorem test_nop_mem_mode_1010_neither_loads_nor_stores :
    locAfter 0x775A (setup 0 [(7, 0x1111), (5, 0x2000)] noFlags [(0x2000, 0x2222)]) 0x2000 =
      some 0x2222 := by decide
theorem test_nop_mem_ignores_undefined_codes : pcAfter 0x7FF0 (setup 9 [] noFlags []) = some 10 := by decide
theorem test_lil_keeps_high_byte :
    regAfter 0x8756 (setup 0 [(7, 0xABCD)] noFlags []) 7 = some 0xAB56 := by decide
theorem test_lil_does_not_sign_extend : regAfter 0x87FF (setup 0 [] noFlags []) 7 = some 0x00FF := by decide
theorem test_lih_keeps_low_byte :
    regAfter 0x9756 (setup 0 [(7, 0xABCD)] noFlags []) 7 = some 0x56CD := by decide
theorem test_lih_highest_register :
    regAfter 0x9BFF (setup 0 [(11, 0x00FF)] noFlags []) 11 = some 0xFFFF := by decide
theorem test_cmp_signed_not_unsigned :
    crAfter 0xA056 (r56 0xFFFF 0x0001) = some ⟨true, false, false⟩ := by decide
theorem test_cmp_exact_at_overflow :
    crAfter 0xAF56 (r56 0x7FFF 0xFFFF) = some ⟨false, false, true⟩ := by decide

/-- V-CMP, rows that differ under `CMP_MODE = wrapped`, and one that does not. -/
theorem test_cmp_wrapped :
    compareFlags .wrapped 0x8000 0x7FFF = ⟨false, false, true⟩ ∧
    compareFlags .wrapped 0x0000 0x8000 = ⟨true, false, false⟩ ∧
    compareFlags .wrapped 0x1234 0x1234 = ⟨false, true, false⟩ ∧
    compareFlags .wrapped 0xC000 0x4000 = ⟨true, false, false⟩ := by decide

theorem test_brn_taken : pcAfter 0xB656 (setup 0x10 [] ⟨true, false, false⟩ []) = some 0x67 := by decide
theorem test_brn_not_taken : pcAfter 0xB656 (setup 0x10 [] ⟨false, true, true⟩ []) = some 0x11 := by decide
theorem test_brz_taken_backward : pcAfter 0xB7FE (setup 5 [] ⟨false, true, false⟩ []) = some 4 := by decide
theorem test_brz_not_taken : pcAfter 0xB7FE (setup 5 [] ⟨true, false, true⟩ []) = some 6 := by decide
theorem test_brp_taken_backward : pcAfter 0xB8FC (setup 5 [] ⟨false, false, true⟩ []) = some 2 := by decide
theorem test_brp_not_taken : pcAfter 0xB856 (setup 9 [] ⟨true, true, false⟩ []) = some 10 := by decide
theorem test_jmp_farthest_backward : pcAfter 0xB980 (setup 0x100 [] noFlags []) = some 0x81 := by decide
theorem test_jmp_wraps_below_zero : pcAfter 0xB9FE (setup 0 [] noFlags []) = some 0xFFFF := by decide
theorem test_nop_branch_modes_beside_the_conditions :
    pcAfter 0xB556 (setup 9 [] ⟨true, true, true⟩ []) = some 10 ∧
      pcAfter 0xBA56 (setup 9 [] ⟨true, true, true⟩ []) = some 10 := by decide

/-- V-BR, the column "if unsigned". -/
theorem test_unsigned_offsets :
    branchTarget false 0x0005 0xFE = 0x0104#16 ∧ branchTarget false 0x0020 0xFF = 0x0120#16 ∧
    branchTarget false 0x0000 0xFE = 0x00FF#16 := by decide

theorem test_udi_refused :
    refusalOf 0xC123 State.reset = some (.undefinedInstruction 12) ∧
      refusalOf 0xD123 State.reset = some (.undefinedInstruction 13) ∧
      refusalOf 0xE000 State.reset = some (.undefinedInstruction 14) ∧
      refusalOf 0xFFFF State.reset = some (.undefinedInstruction 15) := by decide
theorem test_udo_refused :
    refusalOf 0x0C00 State.reset = some (.undefinedOperand 12) ∧
      refusalOf 0x5D10 State.reset = some (.undefinedOperand 13) ∧
      refusalOf 0x70C9 State.reset = some (.undefinedOperand 12) ∧
      refusalOf 0x9FFF State.reset = some (.undefinedOperand 15) ∧
      refusalOf 0xA00D State.reset = some (.undefinedOperand 13) := by decide
theorem test_branches_have_no_register_field :
    refusalOf 0xB6C0 State.reset = none ∧ refusalOf 0xBC00 State.reset = none := by decide

/-- V-LD, V-ST: a store to pc + 1 is executed by the next step (the NOP 0x7000). -/
theorem test_store_to_next_location :
    (match Host.Core.run Sys2Proof.core 2
        ((setup 3 [(1, 4), (2, 0x7000)] noFlags []).withFetchWord 16 0x7219) with
      | .next t => some (State.pc t)
      | .fault _ => none
      | .refused _ => none) = some 5 := by decide

/-! ## The assembler (30_encoding.md R78, R79; 95_test_vectors.md Part 1 and program P2) -/

theorem test_asm_source_examples :
    assembleProgram [
      "ADD R7 R5 R6 # R7 = R5+R6".toList, "NAND R7 R5 R6 # R7 = R5 NAND R6".toList,
      "SLA R7 R5 6 # R7 = R5 SLA 6".toList, "LD R7 R5 # R7 = MEM[R5]".toList,
      "ST R7 R5 # MEM[R5] = R7".toList, "LIL R7 01010110 # R7[LOW] = 01010110".toList,
      "CMP R5 R6 # R5 >, =, or < R6?".toList] =
    some [0x0756, 0x4756, 0x5756, 0x7756, 0x7759, 0x8756, 0xA056] := by decide

theorem test_asm_loop_labels :
    assembleProgram [
      "LOOP: ADD R3 R3 R1".toList, "CMP R1 R0".toList, "BRP LOOP".toList, "BRN +1".toList,
      "NOP".toList, "END: JMP END".toList, ".WORD 0xFFFF".toList] =
    some [0x0331, 0xA010, 0xB8FD, 0xB601, 0x7000, 0xB9FF, 0xFFFF] := by decide

theorem test_asm_rejects :
    assembleProgram ["ADD R12 R0 R0".toList] = none ∧ assembleProgram ["SLA R1 R1 16".toList] = none ∧
    assembleProgram ["JMP NOWHERE".toList] = none := by decide

/-! ## Witnesses: a state and operands that meet each statement's hypotheses together -/

/-- A machine on which U0 to U3 are registers, SLA fills with bit 0 and CMP tests the wrapped difference. -/
def otherMachine : State :=
  .resetWith ⟨false, .wrapped, .lsb, .gpr⟩ ⟨false, true, false⟩ []

theorem witness_AddSubWriteWrappedResult :
    State.reset.allows [.gpr 0, .gpr 11, .gpr 11] = true ∧
      otherMachine.allows [.udo 3, .udo 0, .gpr 0] = true := by decide
theorem witness_AddSubAgreeWithSignedReading :
    State.reset.allows [.gpr 5, .gpr 5, .gpr 5] = true := by decide
theorem witness_LogicWritesBitwiseResult :
    State.reset.allows [.gpr 11, .gpr 0, .gpr 0] = true ∧
      otherMachine.allows [.udo 0, .udo 0, .udo 3] = true := by decide
theorem witness_SraDividesRoundingDown :
    State.reset.allows [.gpr 11, .gpr 0] = true ∧ otherMachine.allows [.udo 0, .udo 3] = true := by decide
theorem witness_LdLoadsWholeLocation :
    State.reset.allows [.gpr 7, .gpr 7] = true ∧ otherMachine.allows [.udo 0, .gpr 0] = true := by decide
theorem witness_StStoresWholeLocation :
    State.reset.allows [.gpr 0, .gpr 11] = true ∧ otherMachine.allows [.gpr 0, .udo 3] = true := by decide
theorem witness_LilLihWriteOneByte :
    State.reset.allows [.gpr 11] = true ∧ otherMachine.allows [.udo 3] = true := by decide
theorem witness_CmpSetsExactlyOneCondition :
    State.reset.allows [.gpr 0, .gpr 0] = true ∧ otherMachine.allows [.udo 1, .gpr 2] = true := by decide
theorem witness_LoadAfterStoreReturnsStoredWord :
    State.reset.allows [.gpr 1, .gpr 2] = true ∧ State.reset.allows [.gpr 2, .gpr 2] = true ∧
      (1 : Word) ≠ State.reset.readReg (.gpr 2) := by decide
theorem witness_LilLihPairBuildsConstant :
    State.reset.allows [.gpr 0] = true := by decide
theorem witness_LogicMovesAndNegates :
    (setup 0 [(6, 0xFFFF)] noFlags []).allows [.gpr 7, .gpr 5, .gpr 6] = true ∧
      (setup 0 [(6, 0xFFFF)] noFlags []).readReg (.gpr 6) = 0xFFFF#16 ∧
      State.reset.readReg (.gpr 6) = 0x0000#16 := by decide
theorem witness_SlaMultipliesByPowerOfTwo :
    State.reset.allows [.gpr 2, .gpr 1] = true ∧ State.reset.cfg.slaFill = .zero := by decide
theorem witness_SlaLsbFillRepeatsBitZero :
    otherMachine.allows [.udo 0, .gpr 1] = true ∧ otherMachine.cfg.slaFill = .lsb := by decide
theorem witness_ShiftsComposeAndUndo :
    (15#4).toNat = (15#4).toNat + (0#4).toNat ∧ (15#4).toNat = (7#4).toNat + (8#4).toNat := by decide
theorem witness_LdOfUnwrittenLocationReadsMemInit :
    State.reset.allows [.gpr 1, .gpr 0] = true ∧
      Memory.find State.reset.mem (loAddr (State.reset.readReg (.gpr 0))) = none ∧
      Memory.find State.reset.mem (hiAddr (State.reset.readReg (.gpr 0))) = none := by decide
theorem witness_CmpComparesSigned :
    State.reset.allows [.gpr 5, .gpr 6] = true ∧ State.reset.cfg.cmpMode = .exact := by decide
theorem witness_CmpWrappedTestsDifferenceSign :
    otherMachine.allows [.gpr 5, .udo 1] = true ∧ otherMachine.cfg.cmpMode = .wrapped := by decide
theorem witness_NopsOnlyAdvance :
    (Instr.nopMem0000 0xFF).isNop = true ∧ (Instr.nopBr1111 0).isNop = true := by decide
theorem witness_BranchWordsOfOtherModesOnlyAdvance :
    (0xB556#16).extractLsb' 12 4 = 0b1011#4 ∧ (0xB556#16).extractLsb' 8 4 ≠ 0b0110#4 ∧
      (0xB556#16).extractLsb' 8 4 ≠ 0b0111#4 ∧ (0xB556#16).extractLsb' 8 4 ≠ 0b1000#4 ∧
      (0xB556#16).extractLsb' 8 4 ≠ 0b1001#4 := by decide
theorem witness_UndefinedOperandIsRefused :
    State.reset.cfg.udoMode = .refuse ∧
      (Instr.ld (.gpr 0) (.udo 3)).regFields = [.gpr 0] ++ RegCode.udo 3 :: [] ∧
      [RegCode.gpr 0].all RegCode.isGpr = true := by decide
theorem witness_ExecCompletesExactlyWhenDefined :
    (Instr.udi1100 0).isUdi = true ∧ (Instr.cmp 0 (.udo 0) (.gpr 0)).isUdi = false ∧
      State.reset.allows (Instr.cmp 0 (.udo 0) (.gpr 0)).regFields = false ∧
      State.reset.allows (Instr.cmp 0 (.gpr 11) (.gpr 0)).regFields = true := by decide
theorem witness_WellFormedInstructionCompletes :
    (Instr.st (.gpr 11) (.gpr 0)).wellFormed = true := by decide
theorem witness_ModeTableOfOpcode0111 :
    (0x7756#16).extractLsb' 12 4 = 0b0111#4 ∧ (0x7756#16).extractLsb' 0 4 = 0b0110#4 ∧
      (0x7759#16).extractLsb' 12 4 = 0b0111#4 ∧ (0x7759#16).extractLsb' 0 4 = 0b1001#4 ∧
      (0x775A#16).extractLsb' 12 4 = 0b0111#4 ∧ (0x775A#16).extractLsb' 0 4 ≠ 0b0110#4 ∧
      (0x775A#16).extractLsb' 0 4 ≠ 0b1001#4 := by decide
theorem witness_ModeTableOfOpcode1011 :
    (0xB600#16).extractLsb' 12 4 = 0b1011#4 ∧ (0xB600#16).extractLsb' 8 4 = 0b0110#4 ∧
      (0xB700#16).extractLsb' 8 4 = 0b0111#4 ∧ (0xB800#16).extractLsb' 8 4 = 0b1000#4 ∧
      (0xB900#16).extractLsb' 8 4 = 0b1001#4 ∧ (0xBA00#16).extractLsb' 8 4 = 0b1010#4 := by decide
theorem witness_LabelOffsetReachesLabel :
    labelOffset 0 128 = some 0x7F#8 ∧ labelOffset 127 0 = some 0x80#8 ∧
      State.reset.pc = 0 ∧ State.reset.cfg.brOffsetSigned = true := by decide
theorem witness_StepRunsDecodedInstruction :
    decodeBytes [Memory.readByte (State.reset.withFetchWord 16 0x7759).mem (loAddr 0),
      Memory.readByte (State.reset.withFetchWord 16 0x7759).mem (hiAddr 0)] =
      .ok (.st (.gpr 7) (.gpr 5), []) := by rfl
theorem witness_OnlyTakenBranchesLeaveSequence :
    ∃ t, exec (.jmp 0x02) State.reset = .next t ∧ t.pc ≠ State.reset.pc + 1 := ⟨_, rfl, by decide⟩
theorem witness_OnlyTakenBranchesLeaveSequence_taken :
    (∃ t, exec (.brn 0x80) (setup 0 [] ⟨true, false, false⟩ []) = .next t ∧ t.pc ≠ 1) ∧
      (∃ t, exec (.brz 0x7F) (setup 0 [] ⟨false, true, false⟩ []) = .next t ∧ t.pc ≠ 1) ∧
      (∃ t, exec (.brp 0xFF) (setup 0 [] ⟨false, false, true⟩ []) = .next t ∧ t.pc ≠ 1) := 
  ⟨⟨_, rfl, by decide⟩, ⟨_, rfl, by decide⟩, ⟨_, rfl, by decide⟩⟩
theorem witness_OnlyLdAndStReachMemory :
    (∃ t, exec (.ld (.gpr 1) (.gpr 0)) State.reset = .next t) ∧
      (∃ t, exec (.st (.gpr 1) (.gpr 0)) State.reset = .next t) ∧
      (∃ t, exec (.lil (.gpr 1) 5) State.reset = .next t) ∧
      Memory.readWord (State.reset.withFetchWord 16 0x7000).mem 0 = 0x7000#16 := ⟨⟨_, rfl⟩, ⟨_, rfl⟩, ⟨_, rfl⟩, by decide⟩
theorem witness_OnlyCmpWritesConditions :
    (∃ t, exec (.cmp 0 (.gpr 1) (.gpr 0)) State.reset = .next t) ∧
      (∃ t, exec (.sub (.gpr 1) (.gpr 0) (.gpr 2)) State.reset = .next t) := ⟨⟨_, rfl⟩, ⟨_, rfl⟩⟩
theorem witness_StoreIsSeenByNextFetch :
    (setup 0xFFFF [(2, 0x7000)] noFlags []).allows [.gpr 2, .gpr 1] = true ∧
      (setup 0xFFFF [(2, 0x7000)] noFlags []).readReg (.gpr 1) =
        (setup 0xFFFF [(2, 0x7000)] noFlags []).pc + 1 := by decide
theorem witness_EndedRunNoLongerChanges :
    runEnded (State.reset.withFetchWord 16 0xB9FF) = true ∧
      (State.reset.withFetchWord 16 0xB9FF).cfg.brOffsetSigned = true := by decide
theorem witness_LaunchPlacesProgramFromZero :
    ([0x8105, 0xB9FF] : List Word).length ≤ 65536 ∧ 1 < ([0x8105, 0xB9FF] : List Word).length ∧
      ([0x8105, 0xB9FF] : List Word).length ≤ (2 : Word).toNat := by decide
theorem witness_StepKeepsCanonicalMemory :
    Memory.wf (State.reset.withFetchWord 16 0x7019).mem ∧
      ∃ t, step (State.reset.withFetchWord 16 0x7019) = .next t := ⟨by decide, ⟨_, rfl⟩⟩
theorem witness_ResetMemoryIsCanonical :
    Memory.wf ([(0, 1), (131071, 2)] : Memory) ∧ ¬ Memory.wf ([(1, 1), (0, 2)] : Memory) := by decide
theorem witness_StepKeepsOneConditionSet :
    (setup 0 [] ⟨true, false, false⟩ []).cr.oneHot ∧
      ∃ t, step ((setup 0 [] ⟨true, false, false⟩ []).withFetchWord 16 0xA010) = .next t := 
  ⟨.inl ⟨rfl, rfl, rfl⟩, ⟨_, rfl⟩⟩
theorem witness_UndefinedOperandStorageIsInert :
    (State.reset.withFetchWord 16 0x0756).cfg.udoMode = .refuse ∧
      ∃ t, step (State.reset.withFetchWord 16 0x0756) = .next t := ⟨rfl, ⟨_, rfl⟩⟩

end Sys2Proof.Tests
end

section
/-! The state rules of 10_state.md (R25 to R31): where an instruction leaves the pc, what it leaves
unchanged, and which parts of the state it does not read. -/

namespace Sys2Proof.Machine

open Sys2Proof

/-! ### The pc -/

/-- The 16-bit OFFSET is its integer value modulo 2^16, under either reading of its sign (decision D1). -/
theorem State.ofInt_offsetValue (s : State) (off : Byte) :
    BitVec.ofInt 16 (s.offsetValue off) = extendOffset s.cfg.brOffsetSigned off := by
  rw [State.offsetValue, extendOffset]
  split
  · rfl
  · simp

/-- The exact sum of 46_branch.md R160, reduced at the end, is the model's modular sum. -/
theorem State.branchDestination_eq (s : State) (off : Byte) :
    s.branchDestination off = branchTarget s.cfg.brOffsetSigned s.pc off := by
  rw [State.branchDestination, BitVec.ofInt_add, BitVec.ofInt_add, s.ofInt_offsetValue, branchTarget]
  simp

/-- The location of the next instruction when `i` completes from `s` (10_state.md R25, R26). -/
def State.nextPc (s : State) : Instr → Word
  | .brn off => if s.cr.crn then s.branchDestination off else s.pc + 1
  | .brz off => if s.cr.crz then s.branchDestination off else s.pc + 1
  | .brp off => if s.cr.crp then s.branchDestination off else s.pc + 1
  | .jmp off => s.branchDestination off
  | _ => s.pc + 1

theorem branchIf_pc {taken : Bool} {off : Byte} {s t : State} (h : branchIf taken off s = .next t) :
    t.pc = if taken then s.branchDestination off else s.pc + 1 := by
  rw [branchIf_eq_next h, State.setPc_pc, State.branchDestination_eq]

/-- An instruction that completes leaves the pc at `State.nextPc`. -/
theorem exec_pc {i : Instr} {s t : State} (h : exec i s = .next t) : t.pc = s.nextPc i := by
  cases i
  case add | sub | and | or => obtain ⟨-, rfl⟩ := binaryOp_eq_next h; rfl
  case nand d a b => obtain ⟨-, rfl⟩ := withOperands_eq_next (exec_nand s d a b ▸ h); rfl
  case sla | sra => obtain ⟨-, rfl⟩ := shiftOp_eq_next h; rfl
  case lil | lih => obtain ⟨-, rfl⟩ := immediateOp_eq_next h; rfl
  case ld d a => obtain ⟨-, rfl⟩ := withOperands_eq_next (exec_ld s d a ▸ h); rfl
  case st c a => obtain ⟨-, rfl⟩ := withOperands_eq_next (exec_st s c a ▸ h); rfl
  case cmp u a b => obtain ⟨-, rfl⟩ := withOperands_eq_next (exec_cmp s u a b ▸ h); rfl
  case brn | brz | brp | jmp => exact branchIf_pc h
  case udi1100 | udi1101 | udi1110 | udi1111 => cases h
  all_goals rw [nop_eq_next h]; rfl

/-- A conditional branch that leaves the sequence was taken. -/
theorem taken_of_pc_ne {taken : Bool} {pc target next : Word} (h : pc = if taken then target else next)
    (hne : pc ≠ next) : taken = true ∧ pc = target := by
  cases taken
  · exact absurd h hne
  · exact ⟨rfl, h⟩

/-! ### What an instruction leaves unchanged -/

/-- No instruction changes the parameters (log 25). -/
theorem exec_cfg {i : Instr} {s t : State} (h : exec i s = .next t) : t.cfg = s.cfg := by
  obtain ⟨-, ⟨_, _, -, rfl⟩ | ⟨_, _, -, rfl⟩ | ⟨_, _, _, -, rfl⟩ | ⟨_, rfl⟩⟩ := exec_eq_next_cases h <;>
    rfl

/-- Only CMP writes CRN, CRZ, CRP (10_state.md R27). -/
theorem exec_cr_of_not_cmp {i : Instr} {s t : State} (h : exec i s = .next t)
    (hc : ∀ u a b, i ≠ .cmp u a b) : t.cr = s.cr := by
  obtain ⟨-, ⟨_, _, -, rfl⟩ | ⟨_, _, -, rfl⟩ | ⟨u, a, b, hi, -⟩ | ⟨_, rfl⟩⟩ := exec_eq_next_cases h
  · rfl
  · rfl
  · exact absurd hi (hc u a b)
  · rfl

/-- Where undefined operands are refused, an operand the machine accepts is one of R0 to R11. -/
theorem State.exists_gpr_of_allows {s : State} {rs : List RegCode} {r : RegCode}
    (hm : s.cfg.udoMode = .refuse) (ha : s.allows rs = true) (hr : r ∈ rs) : ∃ n, r = .gpr n := by
  have hu := List.all_eq_true.1 ha r hr
  rw [hm] at hu
  cases r with
  | gpr n => exact ⟨n, rfl⟩
  | udo n => cases hu

/-- Where undefined operands are refused, no instruction writes U0 to U3 (10_state.md R30). -/
theorem exec_udo_of_refuse {i : Instr} {s t : State} (h : exec i s = .next t)
    (hm : s.cfg.udoMode = .refuse) : t.udo = s.udo := by
  obtain ⟨ha, ⟨d, v, hd, rfl⟩ | ⟨_, _, -, rfl⟩ | ⟨_, _, _, -, rfl⟩ | ⟨_, rfl⟩⟩ := exec_eq_next_cases h
  · obtain ⟨n, rfl⟩ := State.exists_gpr_of_allows hm ha hd
    rfl
  · rfl
  · rfl
  · rfl

/-! ### Parts of the state an instruction does not read -/

/-- `g` overwrites a part of the state that holds neither the pc, nor memory, nor the parameters, nor any
register of `rs`: those read the same after it, and writing them commutes with it. -/
structure Overlay (g : State → State) (rs : List RegCode) : Prop where
  cfg : ∀ s, (g s).cfg = s.cfg
  pc : ∀ s, (g s).pc = s.pc
  mem : ∀ s, (g s).mem = s.mem
  readReg : ∀ s, ∀ r ∈ rs, (g s).readReg r = s.readReg r
  writeReg : ∀ s v, ∀ r ∈ rs, (g s).writeReg r v = g (s.writeReg r v)
  setPc : ∀ s a, (g s).setPc a = g (s.setPc a)
  setMem : ∀ s m, (g s).setMem m = g (s.setMem m)

section
variable {g : State → State} {rs : List RegCode} {s t : State}

theorem Overlay.advance (hg : Overlay g rs) (s : State) : (g s).advance = g s.advance := by
  rw [State.advance, hg.pc, hg.setPc, State.advance]

/-- An effect that commutes with the overwriting does so behind the check of its operands too. -/
theorem Overlay.withOperands_next (hg : Overlay g rs) {f f' : State → State} (hf : f' (g s) = g (f s))
    (h : withOperands rs s f = .next t) : withOperands rs (g s) f' = .next (g t) := by
  obtain ⟨ha, rfl⟩ := withOperands_eq_next h
  rw [withOperands_of_allows f' (by rw [State.allows, hg.cfg]; exact ha), hf]

/-- Writing a register commutes with the overwriting when the value written does not depend on it. -/
theorem Overlay.writeReg_advance (hg : Overlay g rs) {d : RegCode} (hd : d ∈ rs) {v v' : Word}
    (hv : v' = v) : ((g s).writeReg d v').advance = g ((s.writeReg d v).advance) := by
  rw [hv, hg.writeReg _ _ _ hd, hg.advance]

theorem Overlay.binaryOp_next {f : Word → Word → Word} {d a b : RegCode} (hg : Overlay g [d, a, b])
    (h : binaryOp f d a b s = .next t) : binaryOp f d a b (g s) = .next (g t) :=
  hg.withOperands_next (hg.writeReg_advance (by simp)
    (by rw [hg.readReg s a (by simp), hg.readReg s b (by simp)])) h

theorem Overlay.shiftOp_next {f : Word → Nibble → Word} {d a : RegCode} {n : Nibble} (hg : Overlay g [d, a])
    (h : shiftOp f d a n s = .next t) : shiftOp f d a n (g s) = .next (g t) :=
  hg.withOperands_next (hg.writeReg_advance (by simp) (by rw [hg.readReg s a (by simp)])) h

theorem Overlay.immediateOp_next {f : Word → Byte → Word} {d : RegCode} {imm : Byte} (hg : Overlay g [d])
    (h : immediateOp f d imm s = .next t) : immediateOp f d imm (g s) = .next (g t) :=
  hg.withOperands_next (hg.writeReg_advance (by simp) (by rw [hg.readReg s d (by simp)])) h

theorem Overlay.execLd_next {d a : RegCode} (hg : Overlay g [d, a])
    (h : execLd d a s = .next t) : execLd d a (g s) = .next (g t) :=
  hg.withOperands_next (hg.writeReg_advance (by simp)
    (by simp only [effectiveAddress, hg.mem, hg.readReg s a (by simp)])) h

theorem Overlay.execSt_next {c a : RegCode} (hg : Overlay g [c, a])
    (h : execSt c a s = .next t) : execSt c a (g s) = .next (g t) :=
  hg.withOperands_next (by simp only [effectiveAddress, hg.mem, hg.readReg s a (by simp),
    hg.readReg s c (by simp), hg.setMem, hg.advance]) h

theorem Overlay.execCmp_next {u : Nibble} {a b : RegCode} (hg : Overlay g [a, b])
    (hset : ∀ s c, (g s).setCond c = g (s.setCond c))
    (h : execCmp u a b s = .next t) : execCmp u a b (g s) = .next (g t) :=
  hg.withOperands_next (by simp only [hg.cfg, hg.readReg s a (by simp), hg.readReg s b (by simp), hset,
    hg.advance]) h

theorem Overlay.branchIf_next (hg : Overlay g rs) {taken taken' : Bool} (ht : taken' = taken) {off : Byte}
    (h : branchIf taken off s = .next t) : branchIf taken' off (g s) = .next (g t) := by
  rw [branchIf_eq_next h, branchIf, ht, hg.cfg, hg.pc, hg.setPc]

theorem Overlay.nop_next (hg : Overlay g rs) (h : nop s = .next t) : nop (g s) = .next (g t) := by
  rw [nop_eq_next h, nop, hg.advance]

end

/-- The instructions to which CRN, CRZ, CRP matter: CMP writes them, BRN, BRZ and BRP read one
(10_state.md R27). -/
def usesCond : Instr → Bool
  | .cmp _ _ _ | .brn _ | .brz _ | .brp _ => true
  | _ => false

theorem usesCond_eq_false {i : Instr} (hcmp : ∀ u a b, i ≠ .cmp u a b) (hbrn : ∀ off, i ≠ .brn off)
    (hbrz : ∀ off, i ≠ .brz off) (hbrp : ∀ off, i ≠ .brp off) : usesCond i = false := by
  unfold usesCond
  split
  · exact absurd rfl (hcmp _ _ _)
  · exact absurd rfl (hbrn _)
  · exact absurd rfl (hbrz _)
  · exact absurd rfl (hbrp _)
  · rfl

/-- An instruction does not see the overwriting of a part of the state that it does not use, and keeps what
was written there. Only where it uses CRN, CRZ, CRP must they be outside that part. -/
theorem Overlay.exec_next {g : State → State} {i : Instr} {s t : State} (hg : Overlay g i.regFields)
    (hcr : usesCond i = true →
      ∀ s, (g s).cr = s.cr ∧ ∀ c, (g s).setCond c = g (s.setCond c))
    (h : exec i s = .next t) : exec i (g s) = .next (g t) := by
  cases i
  case add | sub | and | or => exact hg.binaryOp_next h
  case nand => exact hg.binaryOp_next (f := fun a b => ~~~(a &&& b)) h
  case sla =>
    rw [exec_sla, hg.cfg]
    exact hg.shiftOp_next h
  case sra => exact hg.shiftOp_next h
  case ld => exact hg.execLd_next h
  case st => exact hg.execSt_next h
  case lil | lih => exact hg.immediateOp_next h
  case cmp u a b => exact hg.execCmp_next (u := u) (fun s => (hcr rfl s).2) h
  case brn => exact hg.branchIf_next (by rw [(hcr rfl s).1]) h
  case brz => exact hg.branchIf_next (by rw [(hcr rfl s).1]) h
  case brp => exact hg.branchIf_next (by rw [(hcr rfl s).1]) h
  case jmp => exact hg.branchIf_next rfl h
  case udi1100 | udi1101 | udi1110 | udi1111 => cases h
  all_goals exact hg.nop_next h

/-- CRN, CRZ, CRP hold no register, whatever the operands. -/
theorem State.setCond_overlay (c : CondRegs) (rs : List RegCode) : Overlay (·.setCond c) rs where
  cfg _ := rfl
  pc _ := rfl
  mem _ := rfl
  readReg s r _ := s.readReg_setCond c r
  writeReg _ _ _ _ := rfl
  setPc _ _ := rfl
  setMem _ _ := rfl

/-- `s` with other contents of U0 to U3. -/
def State.setUdo (s : State) (u : Vector Word 4) : State := { s with udo := u }

/-- U0 to U3 hold no register that is an operand, where every operand is one of R0 to R11. -/
theorem State.setUdo_overlay (u : Vector Word 4) {rs : List RegCode} (hrs : ∀ r ∈ rs, ∃ n, r = .gpr n) :
    Overlay (·.setUdo u) rs where
  cfg _ := rfl
  pc _ := rfl
  mem _ := rfl
  readReg _ r hr := by obtain ⟨n, rfl⟩ := hrs r hr; rfl
  writeReg _ _ r hr := by obtain ⟨n, rfl⟩ := hrs r hr; rfl
  setPc _ _ := rfl
  setMem _ _ := rfl

/-- Where undefined operands are refused, no instruction depends on what U0 to U3 hold (10_state.md R30). -/
theorem exec_setUdo_of_refuse {i : Instr} {s t : State} (h : exec i s = .next t)
    (hm : s.cfg.udoMode = .refuse) (u : Vector Word 4) : exec i (s.setUdo u) = .next (t.setUdo u) := by
  obtain ⟨ha, -⟩ := exec_eq_next_cases h
  exact (State.setUdo_overlay u fun _ => State.exists_gpr_of_allows hm ha).exec_next
    (fun _ _ => ⟨rfl, fun _ => rfl⟩) h

/-- CMP keeps nothing of what CRN, CRZ, CRP held (45_compare.md R150). -/
theorem exec_cmp_setCond {s t : State} {u : Nibble} {a b : RegCode} (h : exec (.cmp u a b) s = .next t)
    (c : CondRegs) : exec (.cmp u a b) (s.setCond c) = .next t := by
  obtain ⟨ha, rfl⟩ := withOperands_eq_next (exec_cmp s u a b ▸ h)
  rw [exec_cmp, withOperands_of_allows _ (show (s.setCond c).allows [a, b] = true from ha)]
  simp only [State.readReg_setCond, State.setCond_cfg]
  rfl

/-! ### The obligations -/

/-- Settles O34: a pc other than pc + 1 is a `State.nextPc` that took the branch. -/
theorem onlyTakenBranchesLeaveSequence : Obligations.OnlyTakenBranchesLeaveSequence := by
  intro i s t h hne
  have hpc := exec_pc h
  cases i
  case brn off => exact .inl ⟨off, rfl, taken_of_pc_ne hpc hne⟩
  case brz off => exact .inr (.inl ⟨off, rfl, taken_of_pc_ne hpc hne⟩)
  case brp off => exact .inr (.inr (.inl ⟨off, rfl, taken_of_pc_ne hpc hne⟩))
  case jmp off => exact .inr (.inr (.inr ⟨off, rfl, hpc⟩))
  all_goals exact absurd hpc hne

/-- Settles O36: the frame of CRN, CRZ, CRP, and that overwriting them is seen by no instruction outside
`usesCond` and is itself overwritten by CMP. -/
theorem onlyCmpWritesConditions : Obligations.OnlyCmpWritesConditions := by
  intro i s t h
  refine ⟨exec_cr_of_not_cmp h, fun hcmp hbrn hbrz hbrp c => ?_, ?_⟩
  · have hu := usesCond_eq_false hcmp hbrn hbrz hbrp
    exact (State.setCond_overlay c i.regFields).exec_next (fun hu' => by rw [hu] at hu'; cases hu') h
  · rintro u a b rfl c
    exact exec_cmp_setCond h c

/-- Settles O47: U0 to U3 change no fetch, so the step is the same instruction's. -/
theorem undefinedOperandStorageIsInert : Obligations.UndefinedOperandStorageIsInert := by
  intro s t h
  exact ⟨exec_cfg h, fun hm => ⟨exec_udo_of_refuse h hm, exec_setUdo_of_refuse h hm⟩⟩

/-- Every register reads 0x0000 right after reset (10_state.md R31; decision D27). -/
theorem State.readReg_resetWith (cfg : Config) (draw : CondRegs) (m : Memory) (r : RegCode) :
    (State.resetWith cfg draw m).readReg r = 0x0000#16 := by
  cases r <;> simp [State.readReg, State.resetWith]

/-- Settles O41: the registers by `State.readReg_resetWith`, the rest as `State.resetWith` builds it. -/
theorem resetClearsPcAndRegisters : Obligations.ResetClearsPcAndRegisters :=
  ⟨fun cfg draw m => ⟨rfl, State.readReg_resetWith cfg draw m, rfl, rfl⟩, rfl⟩

/-- Settles O45: the empty memory is canonical, and placing a program keeps the form. -/
theorem resetMemoryIsCanonical : Obligations.ResetMemoryIsCanonical :=
  ⟨State.reset_mem_wf, fun _ _ _ ws hm => Memory.loadWords_keeps_wf hm 0 ws⟩

end Sys2Proof.Machine
end

section
/-! The memory rules of 20_memory.md (R42 to R51): which instructions reach memory and where, what a fetch
sees, and the canonical form of memory. -/

namespace Sys2Proof.Machine

open Sys2Proof

/-! ### The fetch -/

/-- The two bytes at the pc, low byte first, decode to the instruction of the fetched word (20_memory.md
R43, R45). -/
theorem decodeBytes_at_pc (s : State) :
    decodeBytes [Memory.readByte s.mem (loAddr s.pc), Memory.readByte s.mem (hiAddr s.pc)] =
      .ok (decodeWord s.fetchWord, []) := rfl

/-- A step depends on the fetch through the word fetched alone. -/
theorem step_of_fetchWord {s : State} {w : Word} (h : s.fetchWord = w) :
    step s = exec (decodeWord w) s := by
  rw [step, h]

/-! ### What an instruction leaves in memory -/

/-- Only ST writes memory, and it writes its one location (20_memory.md R42). -/
theorem exec_mem_cases {i : Instr} {s t : State} (h : exec i s = .next t) :
    t.mem = s.mem ∨ ∃ c a, i = .st c a ∧
      t.mem = Memory.writeWord s.mem (effectiveAddress s a) (s.readReg c) := by
  obtain ⟨-, ⟨_, _, -, rfl⟩ | ⟨c, a, hi, rfl⟩ | ⟨_, _, _, -, rfl⟩ | ⟨_, rfl⟩⟩ := exec_eq_next_cases h
  · exact .inl rfl
  · exact .inr ⟨c, a, hi, rfl⟩
  · exact .inl rfl
  · exact .inl rfl

/-- Every instruction but ST leaves every byte as it was. -/
theorem sameMem_of_not_st {i : Instr} {s t : State} (h : exec i s = .next t)
    (hst : ∀ c a, i ≠ .st c a) : SameMem s t := by
  obtain hmem | ⟨c, a, hi, -⟩ := exec_mem_cases h
  · exact fun k => by rw [hmem]
  · exact absurd hi (hst c a)

/-- The state after a ST that completes. -/
theorem exec_st_eq_next {c a : RegCode} {s t : State} (h : exec (.st c a) s = .next t) :
    t = (s.setMem (Memory.writeWord s.mem (effectiveAddress s a) (s.readReg c))).advance :=
  (withOperands_eq_next (exec_st s c a ▸ h)).2

/-- ST leaves every byte outside its one location as it was. -/
theorem exec_st_sameMemBut {c a : RegCode} {s t : State} (h : exec (.st c a) s = .next t) :
    SameMemBut (effectiveAddress s a) s t := by
  intro k hlo hhi
  rw [exec_st_eq_next h, State.advance_mem, State.setMem_mem,
    Memory.readByte_writeWord_other _ _ _ hlo hhi]

/-- An instruction that completes keeps the canonical form of memory. -/
theorem exec_keeps_wf {i : Instr} {s t : State} (hm : Memory.wf s.mem) (h : exec i s = .next t) :
    Memory.wf t.mem := by
  obtain hmem | ⟨_, _, -, hmem⟩ := exec_mem_cases h
  · exact hmem ▸ hm
  · exact hmem ▸ Memory.writeWord_keeps_wf hm _ _

/-! ### What an instruction sees of memory -/

@[simp] theorem effectiveAddress_setMem (s : State) (m : Memory) (a : RegCode) :
    effectiveAddress (s.setMem m) a = effectiveAddress s a := State.readReg_setMem s m a

/-- The check of the operands does not see memory: with memory `m` in place of its own, an instruction takes
its effect, and leaves memory `m'` where that effect does. -/
theorem withOperands_setMem {rs : List RegCode} {s t : State} {f f' : State → State} {m m' : Memory}
    (hf : f' (s.setMem m) = (f s).setMem m') (h : withOperands rs s f = .next t) :
    withOperands rs (s.setMem m) f' = .next (t.setMem m') := by
  obtain ⟨ha, rfl⟩ := withOperands_eq_next h
  rw [withOperands_of_allows f' (show (s.setMem m).allows rs = true from ha), hf]

/-- Writing a register and advancing leave the memory that is there. -/
theorem State.writeReg_advance_setMem (s : State) (m : Memory) (d : RegCode) {v v' : Word} (hv : v' = v) :
    ((s.setMem m).writeReg d v').advance = ((s.writeReg d v).advance).setMem m := by
  rw [hv]; rfl

theorem binaryOp_setMem {f : Word → Word → Word} {d a b : RegCode} {s t : State}
    (h : binaryOp f d a b s = .next t) (m : Memory) :
    binaryOp f d a b (s.setMem m) = .next (t.setMem m) :=
  withOperands_setMem (s.writeReg_advance_setMem m d (by simp)) h

theorem shiftOp_setMem {f : Word → Nibble → Word} {d a : RegCode} {n : Nibble} {s t : State}
    (h : shiftOp f d a n s = .next t) (m : Memory) :
    shiftOp f d a n (s.setMem m) = .next (t.setMem m) :=
  withOperands_setMem (s.writeReg_advance_setMem m d (by simp)) h

theorem immediateOp_setMem {f : Word → Byte → Word} {d : RegCode} {imm : Byte} {s t : State}
    (h : immediateOp f d imm s = .next t) (m : Memory) :
    immediateOp f d imm (s.setMem m) = .next (t.setMem m) :=
  withOperands_setMem (s.writeReg_advance_setMem m d (by simp)) h

theorem execCmp_setMem {u : Nibble} {a b : RegCode} {s t : State} (h : execCmp u a b s = .next t)
    (m : Memory) : execCmp u a b (s.setMem m) = .next (t.setMem m) :=
  withOperands_setMem (by simp only [State.readReg_setMem, State.setMem_cfg]; rfl) h

theorem branchIf_setMem {taken : Bool} {off : Byte} {s t : State} (h : branchIf taken off s = .next t)
    (m : Memory) : branchIf taken off (s.setMem m) = .next (t.setMem m) := by
  rw [branchIf_eq_next h]; rfl

theorem nop_setMem {s t : State} (h : nop s = .next t) (m : Memory) :
    nop (s.setMem m) = .next (t.setMem m) := by
  rw [nop_eq_next h]; rfl

/-- An instruction that is neither LD nor ST acts the same whatever memory holds (20_memory.md R42). -/
theorem exec_setMem {i : Instr} {s t : State} (h : exec i s = .next t) (hld : ∀ d a, i ≠ .ld d a)
    (hst : ∀ c a, i ≠ .st c a) (m : Memory) : exec i (s.setMem m) = .next (t.setMem m) := by
  cases i
  case ld d a => exact absurd rfl (hld d a)
  case st c a => exact absurd rfl (hst c a)
  case add | sub | and | or => exact binaryOp_setMem h m
  case nand => exact binaryOp_setMem (f := fun a b => ~~~(a &&& b)) h m
  case sla | sra => exact shiftOp_setMem h m
  case lil | lih => exact immediateOp_setMem h m
  case cmp u a b => exact execCmp_setMem (u := u) h m
  case brn | brz | brp | jmp => exact branchIf_setMem h m
  case udi1100 | udi1101 | udi1110 | udi1111 => cases h
  all_goals exact nop_setMem h m

/-- LD sees of memory the one location it reads (20_memory.md R42, R54). -/
theorem execLd_setMem {d a : RegCode} {s t : State} (h : execLd d a s = .next t) {m : Memory}
    (hm : Memory.readWord m (s.readReg a) = Memory.readWord s.mem (s.readReg a)) :
    execLd d a (s.setMem m) = .next (t.setMem m) :=
  withOperands_setMem (s.writeReg_advance_setMem m d
    (by rw [State.setMem_mem, effectiveAddress_setMem]; exact hm)) h

/-- ST sees nothing of memory: it writes its location over whatever is there (20_memory.md R42). -/
theorem execSt_setMem {c a : RegCode} {s t : State} (h : execSt c a s = .next t) (m : Memory) :
    execSt c a (s.setMem m) =
      .next (t.setMem (Memory.writeWord m (effectiveAddress s a) (s.readReg c))) :=
  withOperands_setMem (by rw [effectiveAddress_setMem, State.readReg_setMem]; rfl) h

/-! ### The obligations -/

/-- Settles O44: a step is an instruction's, and of those only ST touches memory, by a store. -/
theorem stepKeepsCanonicalMemory : Obligations.StepKeepsCanonicalMemory :=
  fun _ _ hm h => exec_keeps_wf hm h

/-- Settles O35: the frame and the dependence on memory of each of the three kinds of instruction, and of
the fetch. -/
theorem onlyLdAndStReachMemory : Obligations.OnlyLdAndStReachMemory := by
  refine ⟨fun i s t h => ⟨fun hld hst => ?_, ?_, ?_⟩, fun s m hm => step_of_fetchWord hm⟩
  · exact ⟨sameMem_of_not_st h hst, exec_setMem h hld hst⟩
  · rintro d a rfl
    exact ⟨sameMem_of_not_st h nofun, fun _ hm => execLd_setMem h hm⟩
  · rintro c a rfl
    exact ⟨exec_st_sameMemBut h, execSt_setMem h⟩

/-- Settles O38: the location the ST wrote is the one the advanced pc fetches from. -/
theorem storeIsSeenByNextFetch : Obligations.StoreIsSeenByNextFetch := by
  intro s c a ha haddr
  refine ⟨_, (exec_st s c a).trans (withOperands_of_allows _ ha), step_of_fetchWord ?_⟩
  rw [effectiveAddress, haddr]
  exact Memory.readWord_writeWord_same s.mem (s.pc + 1) (s.readReg c)

/-- Settles O33: the decoded pair is that of the fetched word. -/
theorem stepRunsDecodedInstruction : Obligations.StepRunsDecodedInstruction := by
  intro s i rest h
  rw [decodeBytes_at_pc] at h
  cases h
  rfl

end Sys2Proof.Machine
end

section
/-! The encoding rules of 30_encoding.md (R61 to R84): the fields of a word as numbers and as nibbles,
decoding and encoding as inverses, the two MODE tables, the assembler's words and label offsets. -/

namespace Sys2Proof

open Sys2Proof.Laws.EncodeKeepsOpcode (packNibbles_opcode)

/-! ### Fields as numbers -/

/-- Concatenation is positional: the high field counts in units of the low one. -/
theorem append_toNat {m n : Nat} (x : BitVec m) (y : BitVec n) :
    (x ++ y).toNat = x.toNat * 2 ^ n + y.toNat := by
  rw [BitVec.toNat_append, ← Nat.shiftLeft_add_eq_or_of_lt y.isLt, Nat.shiftLeft_eq]

theorem pair_toNat (hi lo : Nibble) : (pair hi lo).toNat = hi.toNat * 2 ^ 4 + lo.toNat := by
  simp only [pair, BitVec.toNat_cast, append_toNat]

theorem twelveBits_toNat (c a b : Nibble) :
    (twelveBits c a b).toNat = (c.toNat * 2 ^ 4 + a.toNat) * 2 ^ 4 + b.toNat := by
  simp only [twelveBits, BitVec.toNat_cast, append_toNat]

theorem packNibbles_toNat (op c a b : Nibble) :
    (packNibbles op c a b).toNat = ((op.toNat * 2 ^ 4 + c.toNat) * 2 ^ 4 + a.toNat) * 2 ^ 4 + b.toNat := by
  simp only [packNibbles, BitVec.toNat_cast, append_toNat]

theorem packByte_toNat (op c : Nibble) (imm : Byte) :
    (packByte op c imm).toNat = (op.toNat * 2 ^ 4 + c.toNat) * 2 ^ 8 + imm.toNat := by
  simp only [packByte, BitVec.toNat_cast, append_toNat]

theorem packMem_toNat (x : Byte) (mode : Nibble) :
    (packMem x mode).toNat = ((0b0111#4).toNat * 2 ^ 8 + x.toNat) * 2 ^ 4 + mode.toNat := by
  simp only [packMem, BitVec.toNat_cast, append_toNat]

theorem packUdi_toNat (op : Nibble) (bits : BitVec 12) :
    (packUdi op bits).toNat = op.toNat * 2 ^ 12 + bits.toNat := by
  simp only [packUdi, BitVec.toNat_cast, append_toNat]

/-- A 4-bit field of a word as a digit of the word's number. -/
theorem nibble_toNat {n : Nat} (x : BitVec n) (k : Nat) :
    (x.extractLsb' k 4).toNat = x.toNat / 2 ^ k % 16 := by
  rw [BitVec.extractLsb'_toNat, Nat.shiftRight_eq_div_pow]

/-! ### Every format as four nibbles -/

theorem packByte_pair (op c a b : Nibble) : packByte op c (pair a b) = packNibbles op c a b := by
  apply BitVec.eq_of_toNat_eq
  rw [packByte_toNat, packNibbles_toNat, pair_toNat]
  omega

theorem packMem_pair (c a b : Nibble) : packMem (pair c a) b = packNibbles 0b0111#4 c a b := by
  apply BitVec.eq_of_toNat_eq
  rw [packMem_toNat, packNibbles_toNat, pair_toNat]
  omega

theorem packUdi_twelveBits (op c a b : Nibble) :
    packUdi op (twelveBits c a b) = packNibbles op c a b := by
  apply BitVec.eq_of_toNat_eq
  rw [packUdi_toNat, packNibbles_toNat, twelveBits_toNat]
  omega

/-- The two nibbles of a byte field. -/
theorem exists_pair (x : Byte) : ∃ hi lo, x = pair hi lo := by
  refine ⟨x.extractLsb' 4 4, x.extractLsb' 0 4, BitVec.eq_of_toNat_eq ?_⟩
  rw [pair_toNat, nibble_toNat, nibble_toNat]
  omega

/-- The three nibbles of the field of format U. -/
theorem exists_twelveBits (x : BitVec 12) : ∃ c a b, x = twelveBits c a b := by
  refine ⟨x.extractLsb' 8 4, x.extractLsb' 4 4, x.extractLsb' 0 4, BitVec.eq_of_toNat_eq ?_⟩
  rw [twelveBits_toNat, nibble_toNat, nibble_toNat, nibble_toNat]
  omega

/-- A word is its four nibbles (30_encoding.md R61). -/
theorem packNibbles_nibbles (w : Word) :
    packNibbles (w.extractLsb' 12 4) (w.extractLsb' 8 4) (w.extractLsb' 4 4) (w.extractLsb' 0 4) = w := by
  apply BitVec.eq_of_toNat_eq
  rw [packNibbles_toNat, nibble_toNat, nibble_toNat, nibble_toNat, nibble_toNat]
  omega

/-- Bits 7:0 of a word are one field of its two low nibbles (30_encoding.md R65, R67). -/
theorem pair_low_nibbles (w : Word) :
    pair (w.extractLsb' 4 4) (w.extractLsb' 0 4) = w.extractLsb' 0 8 :=
  BitVec.extractLsb'_append_extractLsb'_eq_extractLsb' rfl

theorem packNibbles_bits_11_8 (op c a b : Nibble) : (packNibbles op c a b).extractLsb' 8 4 = c := by
  apply BitVec.eq_of_toNat_eq
  rw [nibble_toNat, packNibbles_toNat]
  omega

theorem packNibbles_bits_7_4 (op c a b : Nibble) : (packNibbles op c a b).extractLsb' 4 4 = a := by
  apply BitVec.eq_of_toNat_eq
  rw [nibble_toNat, packNibbles_toNat]
  omega

theorem packNibbles_bits_3_0 (op c a b : Nibble) : (packNibbles op c a b).extractLsb' 0 4 = b := by
  apply BitVec.eq_of_toNat_eq
  rw [nibble_toNat, packNibbles_toNat]
  omega

theorem decodeWord_packNibbles (op c a b : Nibble) :
    decodeWord (packNibbles op c a b) = decodeFields op c a b := by
  rw [decodeWord, packNibbles_opcode, packNibbles_bits_11_8, packNibbles_bits_7_4,
    packNibbles_bits_3_0]

/-- The two low nibbles of a byte format are decoded as its 8-bit field (30_encoding.md R65, R67). -/
theorem decodeWord_packByte (op c a b : Nibble) :
    decodeWord (packByte op c (pair a b)) = decodeFields op c a b := by
  rw [packByte_pair, decodeWord_packNibbles]

/-- The words of opcode 0111 are decoded by their MODE, bits 3:0 (30_encoding.md R72). -/
theorem decodeWord_packMem (c a mode : Nibble) :
    decodeWord (packMem (pair c a) mode) = decodeMem c a mode := by
  rw [packMem_pair, decodeWord_packNibbles]; rfl

theorem decodeWord_packUdi (op c a b : Nibble) :
    decodeWord (packUdi op (twelveBits c a b)) = decodeFields op c a b := by
  rw [packUdi_twelveBits, decodeWord_packNibbles]

/-! ### Register codes -/

@[simp] theorem RegCode.ofBits_bits (r : RegCode) : RegCode.ofBits r.bits = r := by
  cases r with
  | gpr n => revert n; decide
  | udo n => revert n; decide

@[simp] theorem RegCode.bits_ofBits (c : Nibble) : (RegCode.ofBits c).bits = c := by
  rw [RegCode.ofBits]
  split
  · simp [RegCode.bits]
  · next h =>
    rw [RegCode.bits, show 12 + (c.toNat - 12) = c.toNat by omega]
    simp

/-! ### Encoding and decoding -/

/-- Decoding undoes encoding: each constructor is packed in one format, whose nibbles `decodeFields` reads
back. The last case is that of the NOPs of opcode 0111. -/
theorem decodeWord_encode (i : Instr) : decodeWord (encode i) = i := by
  cases i
  case add | sub | and | or | nand | sla | sra | ld | st | cmp =>
    rw [encode, decodeWord_packNibbles]
    simp only [decodeFields, decodeMem, RegCode.ofBits_bits]
  case lil d x | lih d x =>
    obtain ⟨hi, lo, rfl⟩ := exists_pair x
    rw [encode, decodeWord_packByte]
    simp only [decodeFields, RegCode.ofBits_bits]
  case udi1100 x | udi1101 x | udi1110 x | udi1111 x =>
    obtain ⟨c, a, b, rfl⟩ := exists_twelveBits x
    exact decodeWord_packUdi _ c a b
  case brn x | brz x | brp x | jmp x | nopBr0000 x | nopBr0001 x | nopBr0010 x | nopBr0011 x |
      nopBr0100 x | nopBr0101 x | nopBr1010 x | nopBr1011 x | nopBr1100 x | nopBr1101 x |
      nopBr1110 x | nopBr1111 x =>
    obtain ⟨hi, lo, rfl⟩ := exists_pair x
    exact decodeWord_packByte _ _ hi lo
  all_goals
    next x =>
    obtain ⟨hi, lo, rfl⟩ := exists_pair x
    exact decodeWord_packMem hi lo _

theorem encode_decodeMem (c a b : Nibble) : encode (decodeMem c a b) = packNibbles 0b0111#4 c a b := by
  unfold decodeMem
  split
  case h_7 | h_10 => simp only [encode, RegCode.bits_ofBits]
  case h_16 =>
    obtain rfl : b = 0b1111#4 := by
      simp only [imp_false] at *
      bv_omega
    exact packMem_pair _ _ _
  all_goals exact packMem_pair _ _ _

theorem encode_decodeBranch (c a b : Nibble) :
    encode (decodeBranch c (pair a b)) = packNibbles 0b1011#4 c a b := by
  unfold decodeBranch
  split
  case h_16 =>
    obtain rfl : c = 0b1111#4 := by
      simp only [imp_false] at *
      bv_omega
    exact packByte_pair _ _ _ _
  all_goals exact packByte_pair _ _ _ _

theorem encode_decodeFields (op c a b : Nibble) :
    encode (decodeFields op c a b) = packNibbles op c a b := by
  unfold decodeFields
  split
  case h_8 => exact encode_decodeMem c a b
  case h_9 | h_10 => rw [encode, RegCode.bits_ofBits, packByte_pair]
  case h_12 => exact encode_decodeBranch c a b
  case h_13 | h_14 | h_15 => exact packUdi_twelveBits _ c a b
  case h_16 =>
    obtain rfl : op = 0b1111#4 := by
      simp only [imp_false] at *
      bv_omega
    exact packUdi_twelveBits _ c a b
  all_goals simp only [encode, RegCode.bits_ofBits]

/-- Encoding undoes decoding: the fields of the decoded instruction are the nibbles of the word. -/
theorem encode_decodeWord (w : Word) : encode (decodeWord w) = w := by
  rw [decodeWord, encode_decodeFields, packNibbles_nibbles]

/-- A word is the encoding of the one instruction it decodes to. -/
theorem encode_eq_iff {i : Instr} {w : Word} : encode i = w ↔ i = decodeWord w :=
  ⟨fun h => h ▸ (decodeWord_encode i).symm, fun h => h ▸ encode_decodeWord w⟩

/-- Decoding by the value of bits 15:12 (30_encoding.md R81). -/
theorem decodeWord_of_opcode {w : Word} {op : Nibble} (h : w.extractLsb' 12 4 = op) :
    decodeWord w =
      decodeFields op (w.extractLsb' 8 4) (w.extractLsb' 4 4) (w.extractLsb' 0 4) := by
  rw [decodeWord, h]

/-! ### The MODE tables -/

/-- In opcode 0111 every MODE but those of LD and ST is a NOP (30_encoding.md R72). -/
theorem decodeMem_isNop {c a b : Nibble} (hld : b ≠ 0b0110#4) (hst : b ≠ 0b1001#4) :
    (decodeMem c a b).isNop = true := by
  unfold decodeMem
  split
  case h_7 => exact absurd rfl hld
  case h_10 => exact absurd rfl hst
  all_goals rfl

/-- In opcode 1011 every MODE but those of the four branches is a NOP (30_encoding.md R73). -/
theorem decodeBranch_isNop {c : Nibble} {imm : Byte} (hbrn : c ≠ 0b0110#4) (hbrz : c ≠ 0b0111#4)
    (hbrp : c ≠ 0b1000#4) (hjmp : c ≠ 0b1001#4) : (decodeBranch c imm).isNop = true := by
  unfold decodeBranch
  split
  case h_7 => exact absurd rfl hbrn
  case h_8 => exact absurd rfl hbrz
  case h_9 => exact absurd rfl hbrp
  case h_10 => exact absurd rfl hjmp
  all_goals rfl

/-! ### The assembler's words -/

/-- What the assembler writes in place of an instruction: CMP with bits 11:8 zero, one NOP for all of them,
and any other instruction as it is (30_encoding.md R75, R76). -/
theorem Instr.canonical_cases (i : Instr) :
    (∃ u a b, i = .cmp u a b ∧ i.canonical = .cmp 0 a b) ∨
    (i.isNop = true ∧ i.canonical = .nopMem0000 0) ∨
    (i.isNop = false ∧ (∀ u a b, i ≠ .cmp u a b) ∧ i.canonical = i) := by
  unfold Instr.canonical
  split
  · next u a b => exact .inl ⟨u, a, b, rfl, rfl⟩
  · next hcmp =>
    cases hn : i.isNop with
    | true => exact .inr (.inl ⟨rfl, rfl⟩)
    | false => exact .inr (.inr ⟨rfl, hcmp, rfl⟩)

/-- The instructions that the assembler writes otherwise. -/
theorem Instr.canonical_ne_iff (i : Instr) :
    i.canonical ≠ i ↔
      (∃ u a b, i = .cmp u a b ∧ u ≠ 0b0000#4) ∨ (i.isNop = true ∧ i ≠ .nopMem0000 0) := by
  obtain ⟨u, a, b, rfl, hc⟩ | ⟨hn, hc⟩ | ⟨hn, hcmp, hc⟩ := i.canonical_cases
  · rw [hc, ne_comm]
    simp [Instr.isNop]
  · have hcmp : ∀ u a b, i ≠ .cmp u a b := by rintro u a b rfl; cases hn
    rw [hc, ne_comm]
    simp [hn, hcmp]
  · simp [hc, hn, hcmp]

/-- A word is a CMP with non-zero ignored bits exactly by its bits 15:8 (30_encoding.md R76). -/
theorem decodeWord_eq_cmp_iff (w : Word) :
    (∃ u a b, decodeWord w = .cmp u a b ∧ u ≠ 0b0000#4) ↔
      w.extractLsb' 12 4 = 0b1010#4 ∧ w.extractLsb' 8 4 ≠ 0b0000#4 := by
  constructor
  · rintro ⟨u, a, b, hw, hu⟩
    obtain rfl : packNibbles 0b1010#4 u a.bits b.bits = w := encode_eq_iff.2 hw.symm
    exact ⟨packNibbles_opcode _ _ _ _, by rwa [packNibbles_bits_11_8]⟩
  · rintro ⟨hop, hu⟩
    exact ⟨_, _, _, decodeWord_of_opcode hop, hu⟩

/-- 0x7000 is the word of the assembler's NOP (30_encoding.md R75, decision D28). -/
theorem decodeWord_eq_canonical_nop_iff (w : Word) : decodeWord w = .nopMem0000 0 ↔ w = 0x7000#16 := by
  rw [eq_comm, ← encode_eq_iff, eq_comm]
  rfl

/-! ### Label offsets -/

theorem labelOffset_isSome_iff (b l : Word) :
    (labelOffset b l).isSome = true ↔
      -128 ≤ (l.toNat : Int) - ((b.toNat : Int) + 1) ∧
        (l.toNat : Int) - ((b.toNat : Int) + 1) ≤ 127 := by
  simp [labelOffset]

/-- The OFFSET of a label, read as signed, is the label's distance from the incremented pc. -/
theorem toInt_of_labelOffset {b l : Word} {off : Byte} (h : labelOffset b l = some off) :
    off.toInt = (l.toNat : Int) - ((b.toNat : Int) + 1) := by
  obtain ⟨hlo, hhi⟩ := (labelOffset_isSome_iff b l).1 (by rw [h]; rfl)
  rw [labelOffset, if_pos ⟨hlo, hhi⟩] at h
  obtain rfl := Option.some.inj h
  exact BitVec.toInt_ofInt_eq_self (by decide) hlo (by omega)

end Sys2Proof

namespace Sys2Proof.Machine

open Sys2Proof

/-! ### Branches to a label -/

/-- With signed offsets, a branch taken with the OFFSET of a label goes to the label (30_encoding.md R80). -/
theorem State.branchDestination_labelOffset {s : State} {l : Word} {off : Byte}
    (h : labelOffset s.pc l = some off) (hs : s.cfg.brOffsetSigned = true) :
    s.branchDestination off = l := by
  rw [State.branchDestination, State.offsetValue, if_pos hs, toInt_of_labelOffset h,
    add_sub_cancel]
  simp

/-- A branch changes nothing but the pc (46_branch.md R160). -/
theorem onlyMovesPc_of_branchIf {i : Instr} {s : State} {taken : Bool} {off : Byte}
    (h : exec i s = branchIf taken off s) :
    OnlyMovesPc i s (if taken then s.branchDestination off else s.pc + 1) := by
  rw [State.branchDestination_eq]
  exact ⟨_, h, rfl, s.readReg_setPc _, rfl, fun _ => rfl, rfl⟩

/-! ### The obligations -/

/-- Settles O25: the round trip of `decodeWord_encode`, constructor by constructor. -/
theorem decodeOfEncode : Obligations.DecodeOfEncode := decodeWord_encode

/-- Settles O26: the round trip of `encode_decodeWord`, by the decoder's own case split. -/
theorem encodeOfDecode : Obligations.EncodeOfDecode := encode_decodeWord

/-- Settles O27: encoding is injective, so the words differ where the instructions do, and those are known by
`Instr.canonical_ne_iff`. -/
theorem assembleOfDecodeIsCanonical : Obligations.AssembleOfDecodeIsCanonical := by
  intro w
  rw [assemble, ne_eq, encode_eq_iff, ← ne_eq, Instr.canonical_ne_iff, decodeWord_eq_cmp_iff,
    ne_eq (decodeWord w), decodeWord_eq_canonical_nop_iff]

/-- Settles O28: CMP ignores the field that changes, and all NOPs are one operation. -/
theorem canonicalInstructionRunsTheSame : Obligations.CanonicalInstructionRunsTheSame := by
  intro i s
  obtain ⟨u, a, b, rfl, hc⟩ | ⟨hn, hc⟩ | ⟨-, -, hc⟩ := i.canonical_cases
  · rw [hc, exec_cmp, exec_cmp]
  · rw [hc, exec_of_isNop s hn, exec_of_isNop s rfl]
  · rw [hc]

/-- Settles O29: opcode 0111 is `decodeMem` on the MODE in bits 3:0. -/
theorem modeTableOfOpcode0111 : Obligations.ModeTableOfOpcode0111 := by
  intro w hop
  have hw : decodeWord w = decodeMem _ _ _ := decodeWord_of_opcode hop
  refine ⟨fun hm => ?_, fun hm => ?_, fun hld hst => ?_⟩
  · rw [hw, hm]; rfl
  · rw [hw, hm]; rfl
  · rw [hw]; exact decodeMem_isNop hld hst

/-- Settles O30: opcode 1011 is `decodeBranch` on the MODE in bits 11:8, with bits 7:0 as one field. -/
theorem modeTableOfOpcode1011 : Obligations.ModeTableOfOpcode1011 := by
  intro w hop
  have hw : decodeWord w = decodeBranch (w.extractLsb' 8 4) (w.extractLsb' 0 8) := by
    rw [decodeWord_of_opcode hop, ← pair_low_nibbles]; rfl
  rw [hw]
  exact ⟨fun hm => by rw [hm]; rfl, fun hm => by rw [hm]; rfl, fun hm => by rw [hm]; rfl,
    fun hm => by rw [hm]; rfl, decodeBranch_isNop⟩

/-- Settles O32: the OFFSET of a label is its exact distance, so the JMP's destination is the label. -/
theorem labelOffsetReachesLabel : Obligations.LabelOffsetReachesLabel := by
  refine fun b l => ⟨labelOffset_isSome_iff b l, ?_⟩
  rintro off s h rfl hs
  have hjmp := onlyMovesPc_of_branchIf (exec_jmp s off)
  rwa [if_pos rfl, State.branchDestination_labelOffset h hs] at hjmp

/-- Settles O31, each word by evaluation of the decoder. -/
theorem workedEncodingsDecode : Obligations.WorkedEncodingsDecode := by
  unfold Obligations.WorkedEncodingsDecode
  decide

end Sys2Proof.Machine
end

section
/-! The rules of ADD and SUB (40_arithmetic.md R100 to R102): the one wrapped result is that of the unsigned
and of the signed reading. -/

namespace Sys2Proof.Machine

open Sys2Proof

/-! ### What an instruction that writes one register does -/

/-- Writing a register and advancing, behind the check of the operands, changes that register and the pc
alone. -/
theorem writesRegister_of_exec {i : Instr} {s : State} {rs : List RegCode} {d : RegCode}
    {f : State → Word} (hexec : exec i s = withOperands rs s fun s => (s.writeReg d (f s)).advance)
    (ha : s.allows rs = true) : WritesRegister i s d (f s) := by
  refine ⟨(s.writeReg d (f s)).advance, hexec.trans (withOperands_of_allows _ ha), ?_, fun r hr => ?_,
    rfl, rfl, fun _ => rfl, rfl⟩
  · rw [State.readReg_advance, State.readReg_writeReg_same]
  · rw [State.readReg_advance, State.readReg_writeReg_other s _ hr]

/-- ADD writes the 16-bit sum (40_arithmetic.md R100). -/
theorem writesRegister_add {s : State} {d a b : RegCode} (ha : s.allows [d, a, b] = true) :
    WritesRegister (.add d a b) s d (s.readReg a + s.readReg b) :=
  writesRegister_of_exec (exec_add s d a b) ha

/-- SUB writes the 16-bit difference, SOURCE ONE less SOURCE TWO (40_arithmetic.md R101). -/
theorem writesRegister_sub {s : State} {d a b : RegCode} (ha : s.allows [d, a, b] = true) :
    WritesRegister (.sub d a b) s d (s.readReg a - s.readReg b) :=
  writesRegister_of_exec (exec_sub s d a b) ha

/-! ### The exact results, reduced at the end -/

/-- Reducing an exact difference modulo `2 ^ w` is subtracting modulo `2 ^ w`. -/
theorem ofInt_sub {w : Nat} (m n : Int) :
    BitVec.ofInt w (m - n) = BitVec.ofInt w m - BitVec.ofInt w n := by
  rw [Int.sub_eq_add_neg, BitVec.ofInt_add, BitVec.ofInt_neg, BitVec.sub_eq_add_neg]

/-- The exact difference of the unsigned values, reduced at the end, is the modular one. -/
theorem ofInt_toNat_sub_toNat {w : Nat} (x y : BitVec w) :
    BitVec.ofInt w ((x.toNat : Int) - (y.toNat : Int)) = x - y := by
  simp [ofInt_sub]

/-- The exact sum of the signed values, reduced at the end, is the modular one. -/
theorem ofInt_toInt_add_toInt {w : Nat} (x y : BitVec w) : BitVec.ofInt w (x.toInt + y.toInt) = x + y := by
  rw [BitVec.ofInt_add, BitVec.ofInt_toInt, BitVec.ofInt_toInt]

/-- The exact difference of the signed values, reduced at the end, is the modular one. -/
theorem ofInt_toInt_sub_toInt {w : Nat} (x y : BitVec w) : BitVec.ofInt w (x.toInt - y.toInt) = x - y := by
  rw [ofInt_sub, BitVec.ofInt_toInt, BitVec.ofInt_toInt]

/-! ### The obligations -/

/-- Settles O1: the 16-bit sum and difference are the exact unsigned ones, reduced. -/
theorem addSubWriteWrappedResult : Obligations.AddSubWriteWrappedResult := by
  intro s d s1 s2 ha
  constructor
  · rw [← BitVec.add_def]
    exact writesRegister_add ha
  · rw [ofInt_toNat_sub_toNat]
    exact writesRegister_sub ha

/-- Settles O2: the 16-bit sum and difference are the exact signed ones, reduced. -/
theorem addSubAgreeWithSignedReading : Obligations.AddSubAgreeWithSignedReading := by
  intro s d s1 s2 ha
  constructor
  · rw [ofInt_toInt_add_toInt]
    exact writesRegister_add ha
  · rw [ofInt_toInt_sub_toInt]
    exact writesRegister_sub ha

end Sys2Proof.Machine
end

section
/-! The rules of AND, OR and NAND (41_logical.md R110 to R113): bitwise over all 16 bits, and what they do
when SOURCE TWO is all ones or all zeros. -/

namespace Sys2Proof.Machine

open Sys2Proof

/-! ### What each instruction writes -/

/-- AND writes the bitwise conjunction (41_logical.md R110). -/
theorem writesRegister_and {s : State} {d a b : RegCode} (ha : s.allows [d, a, b] = true) :
    WritesRegister (.and d a b) s d (s.readReg a &&& s.readReg b) :=
  writesRegister_of_exec (exec_and s d a b) ha

/-- OR writes the bitwise inclusive disjunction (41_logical.md R111). -/
theorem writesRegister_or {s : State} {d a b : RegCode} (ha : s.allows [d, a, b] = true) :
    WritesRegister (.or d a b) s d (s.readReg a ||| s.readReg b) :=
  writesRegister_of_exec (exec_or s d a b) ha

/-- NAND writes the complement of the bitwise conjunction (41_logical.md R112). -/
theorem writesRegister_nand {s : State} {d a b : RegCode} (ha : s.allows [d, a, b] = true) :
    WritesRegister (.nand d a b) s d (~~~(s.readReg a &&& s.readReg b)) :=
  writesRegister_of_exec (exec_nand s d a b) ha

/-- An instruction that writes `v` to `d`, its frame left aside: it completes, and `d` then reads any word
equal to `v`. -/
theorem WritesRegister.completes_reading {i : Instr} {s : State} {d : RegCode} {v w : Word}
    (h : WritesRegister i s d v) (hv : v = w) : ∃ t, exec i s = .next t ∧ t.readReg d = w := by
  obtain ⟨t, hexec, hread, -⟩ := h
  exact ⟨t, hexec, hread.trans hv⟩

/-! ### The masks of R113 -/

/-- 0xFFFF is the word of sixteen ones, so it is neutral for AND. -/
theorem and_ffff (x : Word) : x &&& 0xFFFF#16 = x := BitVec.and_allOnes

/-! ### The obligations -/

/-- Settles O3: the 16-bit operations act on each bit alone; for NAND the index has to be one of the 16, as
the complement is taken within the word. -/
theorem logicWritesBitwiseResult : Obligations.LogicWritesBitwiseResult := by
  intro s d s1 s2 ha
  refine ⟨⟨_, writesRegister_and ha, fun i _ => ?_⟩, ⟨_, writesRegister_or ha, fun i _ => ?_⟩,
    ⟨_, writesRegister_nand ha, fun i hi => ?_⟩⟩
  · rw [BitVec.getLsbD_and]
  · rw [BitVec.getLsbD_or]
  · rw [BitVec.getLsbD_not, BitVec.getLsbD_and, decide_eq_true hi, Bool.true_and]

/-- Settles O4: 0xFFFF is neutral for AND and 0x0000 for OR, so SOURCE ONE is what AND and OR write and what
NAND complements. -/
theorem logicMovesAndNegates : Obligations.LogicMovesAndNegates := by
  intro s d s1 s2 ha
  refine ⟨fun hones => ?_, fun hzeros => ?_⟩
  · have hand : s.readReg s1 &&& s.readReg s2 = s.readReg s1 := by rw [hones, and_ffff]
    exact ⟨(writesRegister_and ha).completes_reading hand,
      (writesRegister_nand ha).completes_reading (congrArg (~~~ ·) hand)⟩
  · have hor : s.readReg s1 ||| s.readReg s2 = s.readReg s1 := by rw [hzeros, BitVec.or_zero]
    exact (writesRegister_or ha).completes_reading hor

end Sys2Proof.Machine
end

section
/-! The rules of SLA and SRA (42_shift.md R120 to R122): the shifts bit by bit and as arithmetic, the two
readings of SLA's fill, and the shift laws. -/

namespace Sys2Proof.Machine

open Sys2Proof

/-! ### The left shift and its fill -/

/-- The left shift multiplies by a power of two, modulo 2^16 (42_shift.md R120). -/
theorem shl_eq_ofNat_mul (v : Word) (n : Nibble) : shl v n = BitVec.ofNat 16 (v.toNat * 2 ^ n.toNat) := by
  rw [← Nat.shiftLeft_eq]
  rfl

/-- The left shift moves every bit n places up and leaves the vacated positions 0 (42_shift.md R120). -/
theorem getLsbD_shl {i : Nat} (hi : i < 16) (v : Word) (n : Nibble) :
    (shl v n).getLsbD i = if i < n.toNat then false else v.getLsbD (i - n.toNat) := by
  rw [shl, BitVec.getLsbD_shiftLeft]
  split <;> simp [*]

/-- A count is below 16, so the n low ones fit in a word. -/
theorem lowOnes_toNat (n : Nibble) : (lowOnes n).toNat = 2 ^ n.toNat - 1 := by
  revert n
  decide

/-- The low ones are exactly the vacated positions. -/
theorem getLsbD_lowOnes (n : Nibble) (i : Nat) : (lowOnes n).getLsbD i = decide (i < n.toNat) := by
  rw [← BitVec.testBit_toNat, lowOnes_toNat, Nat.testBit_two_pow_sub_one]

/-- Under either reading SLA moves every bit n places up; the readings give the vacated positions 0 or the
original bit 0 (42_shift.md R120, decision D3). -/
theorem getLsbD_shiftLeftArith {i : Nat} (hi : i < 16) (fill : SlaFill) (v : Word) (n : Nibble) :
    (shiftLeftArith fill v n).getLsbD i =
      if i < n.toNat then fill == .lsb && v.getLsbD 0 else v.getLsbD (i - n.toNat) := by
  cases fill with
  | zero => exact getLsbD_shl hi v n
  | lsb =>
    cases h0 : v.getLsbD 0 with
    | false =>
      rw [shiftLeftArith, h0, if_neg Bool.false_ne_true, getLsbD_shl hi]
      rfl
    | true =>
      rw [shiftLeftArith, h0, if_pos rfl, BitVec.getLsbD_or, getLsbD_shl hi, getLsbD_lowOnes]
      split <;> simp [*]

/-! ### The right shift -/

/-- The right shift moves every bit n places down and copies bit 15 into the vacated positions
(42_shift.md R121). -/
theorem getLsbD_asr {i : Nat} (hi : i < 16) (v : Word) (n : Nibble) :
    (asr v n).getLsbD i = if i + n.toNat ≤ 15 then v.getLsbD (i + n.toNat) else v.getLsbD 15 := by
  rw [asr, BitVec.getLsbD_sshiftRight, BitVec.msb_eq_getLsbD_last, Nat.add_comm]
  simp [hi, Nat.lt_succ_iff]

/-- The right shift divides the signed value by a power of two, rounding down (42_shift.md R121). -/
theorem toInt_asr (v : Word) (n : Nibble) : (asr v n).toInt = Int.fdiv v.toInt (2 ^ n.toNat) := by
  rw [asr, BitVec.toInt_sshiftRight, Int.shiftRight_eq_div_pow,
    Int.fdiv_eq_ediv_of_nonneg _ (by positivity)]
  norm_cast

/-! ### A left shift followed by a right shift of the same count -/

/-- The bits that survive the left shift come back to their places; the others read as bit 15 - n, which the
left shift moved to the sign's place. -/
theorem getLsbD_asr_shl {i : Nat} (hi : i < 16) (v : Word) (n : Nibble) :
    (asr (shl v n) n).getLsbD i = if i + n.toNat ≤ 15 then v.getLsbD i else v.getLsbD (15 - n.toNat) := by
  have hn : n.toNat < 16 := n.isLt
  rw [getLsbD_asr hi]
  split
  · next hin => rw [getLsbD_shl (by omega), if_neg (by omega), Nat.add_sub_cancel]
  · rw [getLsbD_shl (by omega), if_neg (by omega)]

/-- The right shift undoes the left shift exactly when the sign and the bits shifted out are all equal
(42_shift.md R122). -/
theorem asr_shl_eq_iff (v : Word) (n : Nibble) :
    asr (shl v n) n = v ↔ ∀ i, i ≤ n.toNat → v.getLsbD (15 - i) = v.getLsbD 15 := by
  have hn : n.toNat < 16 := n.isLt
  constructor
  · intro h
    have top_eq (i : Nat) (hi : i ≤ n.toNat) : v.getLsbD (15 - i) = v.getLsbD (15 - n.toNat) := by
      obtain rfl | hlt := hi.eq_or_lt
      · rfl
      · have hbit := getLsbD_asr_shl (i := 15 - i) (by omega) v n
        rwa [h, if_neg (by omega)] at hbit
    exact fun i hi => (top_eq i hi).trans (top_eq 0 n.toNat.zero_le).symm
  · intro h
    refine BitVec.eq_of_getLsbD_eq fun j hj => ?_
    rw [getLsbD_asr_shl hj]
    split
    · rfl
    · have hj' := h (15 - j) (by omega)
      rw [h n.toNat le_rfl, ← hj', Nat.sub_sub_self (by omega)]

/-! ### What each instruction writes -/

/-- SLA writes its source shifted left under the machine's `SLA_FILL` (42_shift.md R120). -/
theorem writesRegister_sla {s : State} {d a : RegCode} {n : Nibble} (ha : s.allows [d, a] = true) :
    WritesRegister (.sla d a n) s d (shiftLeftArith s.cfg.slaFill (s.readReg a) n) :=
  writesRegister_of_exec (f := fun t => shiftLeftArith s.cfg.slaFill (t.readReg a) n)
    (exec_sla s d a n) ha

/-- SRA writes its source shifted right (42_shift.md R121). -/
theorem writesRegister_sra {s : State} {d a : RegCode} {n : Nibble} (ha : s.allows [d, a] = true) :
    WritesRegister (.sra d a n) s d (asr (s.readReg a) n) :=
  writesRegister_of_exec (exec_sra s d a n) ha

/-! ### The obligations -/

/-- Settles O5: with zero fill SLA writes the left shift, which is the exact product, reduced. -/
theorem slaMultipliesByPowerOfTwo : Obligations.SlaMultipliesByPowerOfTwo := by
  intro s d a n ha hfill
  have hsla := writesRegister_sla (n := n) ha
  rw [hfill] at hsla
  rw [← shl_eq_ofNat_mul]
  exact hsla

/-- Settles O6: the bits of the left shift under the reading `lsb`. -/
theorem slaLsbFillRepeatsBitZero : Obligations.SlaLsbFillRepeatsBitZero := by
  intro s d a n ha hfill
  refine ⟨_, writesRegister_sla ha, fun i hi => ?_⟩
  rw [hfill]
  exact getLsbD_shiftLeftArith hi .lsb (s.readReg a) n

/-- Settles O7: with a vacated position the readings differ at bit 0 if the source's bit 0 is 1; without one,
or with a bit 0 of 0, they agree at every bit. -/
theorem slaReadingsDifferExactly : Obligations.SlaReadingsDifferExactly := by
  intro v n
  constructor
  · intro hne
    by_contra hsame
    refine hne (BitVec.eq_of_getLsbD_eq fun i hi => ?_)
    rw [getLsbD_shiftLeftArith hi, getLsbD_shiftLeftArith hi]
    split
    · next hin =>
      have h0 : v.getLsbD 0 = false := Bool.eq_false_iff.2 fun h0 => hsame ⟨h0, by omega⟩
      rw [h0, Bool.and_false, Bool.and_false]
    · rfl
  · rintro ⟨h0, (hn : 0 < n.toNat)⟩ heq
    have hbit := congrArg (BitVec.getLsbD · 0) heq
    rw [getLsbD_shiftLeftArith (by decide), getLsbD_shiftLeftArith (by decide), if_pos hn, if_pos hn,
      h0] at hbit
    cases hbit

/-- Settles O8: the signed value and the bits of the right shift that SRA writes. -/
theorem sraDividesRoundingDown : Obligations.SraDividesRoundingDown := by
  intro s d a n ha
  exact ⟨_, writesRegister_sra ha, toInt_asr _ n, fun i hi => getLsbD_asr hi _ n⟩

/-- Settles O9: the library's composition of shifts of one kind, doubling as a product with 2, and
`asr_shl_eq_iff`. -/
theorem shiftsComposeAndUndo : Obligations.ShiftsComposeAndUndo := by
  intro a m n
  refine ⟨fun k hk => ⟨?_, ?_⟩, ?_, asr_shl_eq_iff a n⟩
  · rw [shl, shl, shl, hk, BitVec.shiftLeft_add]
  · rw [asr, asr, asr, hk, BitVec.sshiftRight_add]
  · rw [shl, BitVec.shiftLeft_eq_mul_twoPow]
    exact BitVec.mul_two

end Sys2Proof.Machine
end

section
/-! The rules of LD, ST and NOP (43_load_store.md R130 to R132): the one location that LD reads and ST writes,
and that a NOP only moves the pc. -/

namespace Sys2Proof.Machine

open Sys2Proof

/-! ### What each instruction does -/

/-- LD writes the word of the location its address register holds (43_load_store.md R130). -/
theorem writesRegister_ld {s : State} {d a : RegCode} (ha : s.allows [d, a] = true) :
    WritesRegister (.ld d a) s d (Memory.readWord s.mem (s.readReg a)) :=
  writesRegister_of_exec (exec_ld s d a) ha

/-- ST writes its data register to the location of its effective address (43_load_store.md R131). -/
theorem writesLocation_st {s : State} {c a : RegCode} (ha : s.allows [c, a] = true) :
    WritesLocation (.st c a) s (effectiveAddress s a) (s.readReg c) := by
  have hexec := (exec_st s c a).trans (withOperands_of_allows _ ha)
  refine ⟨_, hexec, ?_, exec_st_sameMemBut hexec, rfl, fun r => ?_, rfl, rfl⟩
  · rw [State.advance_mem, State.setMem_mem, Memory.readWord_writeWord_same]
  · rw [State.readReg_advance, State.readReg_setMem]

/-- A NOP changes nothing but the pc (43_load_store.md R132; 46_branch.md R165). -/
theorem onlyMovesPc_of_isNop {i : Instr} (hi : i.isNop = true) (s : State) :
    OnlyMovesPc i s (s.pc + 1) :=
  ⟨s.advance, exec_of_isNop s hi, rfl, s.readReg_advance, rfl, fun _ => rfl, rfl⟩

/-- Which operands have a meaning depends on the parameters alone (47_undefined.md R174). -/
theorem State.allows_of_cfg_eq {s t : State} {rs : List RegCode} (hcfg : t.cfg = s.cfg)
    (ha : s.allows rs = true) : t.allows rs = true := by
  rwa [State.allows, hcfg]

/-! ### The obligations -/

/-- Settles O10: LD's rule, which reads the address register before it writes the destination. -/
theorem ldLoadsWholeLocation : Obligations.LdLoadsWholeLocation :=
  fun _ _ _ ha => writesRegister_ld ha

/-- Settles O11: the location LD reads has neither byte listed, so it holds its word of `MEM_INIT`. -/
theorem ldOfUnwrittenLocationReadsMemInit : Obligations.LdOfUnwrittenLocationReadsMemInit := by
  intro s d a ha hlo hhi
  rw [← Memory.readWord_of_unlisted s.mem (s.readReg a) hlo hhi]
  exact writesRegister_ld ha

/-- Settles O12: the effective address is the address register, and ST writes that location. -/
theorem stStoresWholeLocation : Obligations.StStoresWholeLocation :=
  fun _ _ _ ha => ⟨rfl, writesLocation_st ha⟩

/-- Settles O19: all 26 NOPs are one operation, which advances the pc. -/
theorem nopsOnlyAdvance : Obligations.NopsOnlyAdvance :=
  fun _ s hi => onlyMovesPc_of_isNop hi s

/-- Settles O37: the ST leaves the address register and the parameters, so the LD reads the location just
written. -/
theorem loadAfterStoreReturnsStoredWord : Obligations.LoadAfterStoreReturnsStoredWord := by
  intro s c a d hst hld
  obtain ⟨t, hexec, hword, -, -, hregs, -, hcfg⟩ := writesLocation_st hst
  refine ⟨t, hexec, ?_, fun b hb => ?_⟩
  · have hload := writesRegister_ld (State.allows_of_cfg_eq hcfg hld)
    have haddr : t.readReg a = effectiveAddress s a := hregs a
    rwa [haddr, hword] at hload
  · rw [exec_st_eq_next hexec]
    exact Memory.readWord_writeWord_other s.mem (s.readReg c) hb

end Sys2Proof.Machine
end

section
/-! The rules of LIL and LIH (44_immediate.md R140 to R142): each writes one byte of its register and keeps
the other, so the two together, in either order, load a 16-bit constant. -/

namespace Sys2Proof.Machine

open Sys2Proof

/-! ### The bytes of the word written -/

/-- LIL's immediate is the low byte of the word written (44_immediate.md R140). -/
theorem loByte_setLow (old : Word) (imm : Byte) : loByte (setLow old imm) = imm :=
  loByte_wordOfBytes _ _

/-- LIL keeps the high byte (44_immediate.md R140). -/
theorem hiByte_setLow (old : Word) (imm : Byte) : hiByte (setLow old imm) = hiByte old :=
  hiByte_wordOfBytes _ _

/-- LIH's immediate is the high byte of the word written (44_immediate.md R141). -/
theorem hiByte_setHigh (old : Word) (imm : Byte) : hiByte (setHigh old imm) = imm :=
  hiByte_wordOfBytes _ _

/-- LIH keeps the low byte (44_immediate.md R141). -/
theorem loByte_setHigh (old : Word) (imm : Byte) : loByte (setHigh old imm) = loByte old :=
  loByte_wordOfBytes _ _

/-- Writing both bytes, the low one first, leaves nothing of the old word. -/
theorem setHigh_setLow (old : Word) (hh ll : Byte) : setHigh (setLow old ll) hh = wordOfBytes hh ll := by
  rw [setHigh, loByte_setLow]

/-- Writing both bytes, the high one first, leaves nothing of the old word. -/
theorem setLow_setHigh (old : Word) (hh ll : Byte) : setLow (setHigh old hh) ll = wordOfBytes hh ll := by
  rw [setLow, hiByte_setHigh]

theorem wordOfBytes_toNat (hh ll : Byte) : (wordOfBytes hh ll).toNat = hh.toNat * 256 + ll.toNat := by
  simp only [wordOfBytes, BitVec.toNat_cast, append_toNat, Nat.reducePow]

/-! ### What each instruction writes -/

/-- LIL writes its register's old word with the low byte replaced (44_immediate.md R140). -/
theorem writesRegister_lil {s : State} {d : RegCode} {imm : Byte} (ha : s.allows [d] = true) :
    WritesRegister (.lil d imm) s d (setLow (s.readReg d) imm) :=
  writesRegister_of_exec (exec_lil s d imm) ha

/-- LIH writes its register's old word with the high byte replaced (44_immediate.md R141). -/
theorem writesRegister_lih {s : State} {d : RegCode} {imm : Byte} (ha : s.allows [d] = true) :
    WritesRegister (.lih d imm) s d (setHigh (s.readReg d) imm) :=
  writesRegister_of_exec (exec_lih s d imm) ha

/-! ### Two instructions that write one register -/

/-- The second write of a register replaces the first. -/
@[simp] theorem State.writeReg_writeReg_same (s : State) (d : RegCode) (v w : Word) :
    (s.writeReg d v).writeReg d w = s.writeReg d w := by
  cases d <;> simp [State.writeReg, writeGpr, writeUdo]

/-- A register write does not see the pc, so the second write replaces the first across an advance too. -/
theorem State.writeReg_advance_twice (s : State) (d : RegCode) (v w : Word) :
    ((s.writeReg d v).advance.writeReg d w).advance = (s.writeReg d w).advance.advance := by
  calc ((s.writeReg d v).advance.writeReg d w).advance
    _ = ((s.writeReg d v).writeReg d w).advance.advance := rfl
    _ = (s.writeReg d w).advance.advance := by rw [State.writeReg_writeReg_same]

/-- The state after LIL and LIH, in either order: the register holds both immediates, and the pc has moved
past both instructions (44_immediate.md R142). -/
def State.afterPair (s : State) (d : RegCode) (hh ll : Byte) : State :=
  (s.writeReg d (wordOfBytes hh ll)).advance.advance

/-- An instruction that writes `f` of its register's old word, after one that wrote `v` there, writes `f v`:
the first word is replaced. -/
theorem exec_after_writeReg {i : Instr} {s : State} {d : RegCode} {f : Word → Word} {v : Word}
    (hexec : ∀ t : State,
      exec i t = withOperands [d] t fun t => (t.writeReg d (f (t.readReg d))).advance)
    (ha : s.allows [d] = true) :
    exec i (s.writeReg d v).advance = .next (s.writeReg d (f v)).advance.advance := by
  have ha' : (s.writeReg d v).advance.allows [d] = true := State.allows_of_cfg_eq rfl ha
  rw [hexec, withOperands_of_allows _ ha', State.readReg_advance, State.readReg_writeReg_same,
    State.writeReg_advance_twice]

/-- LIL, then LIH. -/
theorem exec_lil_lih {s : State} {d : RegCode} (hh ll : Byte) (ha : s.allows [d] = true) :
    ∃ t, exec (.lil d ll) s = .next t ∧ exec (.lih d hh) t = .next (s.afterPair d hh ll) := by
  refine ⟨_, (exec_lil s d ll).trans (withOperands_of_allows _ ha), ?_⟩
  rw [exec_after_writeReg (f := (setHigh · hh)) (fun t => exec_lih t d hh) ha, setHigh_setLow,
    State.afterPair]

/-- LIH, then LIL. -/
theorem exec_lih_lil {s : State} {d : RegCode} (hh ll : Byte) (ha : s.allows [d] = true) :
    ∃ t, exec (.lih d hh) s = .next t ∧ exec (.lil d ll) t = .next (s.afterPair d hh ll) := by
  refine ⟨_, (exec_lih s d hh).trans (withOperands_of_allows _ ha), ?_⟩
  rw [exec_after_writeReg (f := (setLow · ll)) (fun t => exec_lil t d ll) ha, setLow_setHigh,
    State.afterPair]

section
variable (s : State) (d : RegCode) (hh ll : Byte)

theorem State.afterPair_readReg_same : (s.afterPair d hh ll).readReg d = wordOfBytes hh ll := by
  rw [State.afterPair, State.readReg_advance, State.readReg_advance, State.readReg_writeReg_same]

theorem State.afterPair_sameRegsBut : SameRegsBut d s (s.afterPair d hh ll) := by
  intro r hr
  rw [State.afterPair, State.readReg_advance, State.readReg_advance, State.readReg_writeReg_other s _ hr]

/-- The pc advances twice, modulo 2^16 (10_state.md R25, R26). -/
theorem State.afterPair_pc : (s.afterPair d hh ll).pc = s.pc + 2 :=
  BitVec.add_assoc s.pc 1 1

end

/-! ### The obligations -/

/-- Settles O13: each instruction writes the word whose one byte is the immediate and whose other byte is
the old one. -/
theorem lilLihWriteOneByte : Obligations.LilLihWriteOneByte := by
  intro s d imm ha
  exact ⟨⟨_, writesRegister_lil ha, loByte_setLow _ imm, hiByte_setLow _ imm⟩,
    ⟨_, writesRegister_lih ha, hiByte_setHigh _ imm, loByte_setHigh _ imm⟩⟩

/-- Settles O39: both orders end in the one state `State.afterPair`, since each instruction keeps the byte
that the other wrote. -/
theorem lilLihPairBuildsConstant : Obligations.LilLihPairBuildsConstant := by
  intro s d hh ll ha
  obtain ⟨t, hlil, hlih⟩ := exec_lil_lih hh ll ha
  obtain ⟨t', hlih', hlil'⟩ := exec_lih_lil hh ll ha
  refine ⟨t, _, hlil, hlih, t', _, hlih', hlil', rfl, ?_, s.afterPair_sameRegsBut d hh ll,
    s.afterPair_pc d hh ll, rfl, fun _ => rfl, rfl⟩
  rw [State.afterPair_readReg_same, wordOfBytes_toNat]

end Sys2Proof.Machine
end

section
/-! The rules of CMP (45_compare.md R150 to R152): both readings of the difference test the sign of an
integer, so exactly one condition register is set, and they differ where the subtraction overflows. -/

namespace Sys2Proof.Machine

open Sys2Proof

/-! ### The flags as the sign of an integer -/

/-- CRN, CRZ, CRP of the difference `d`: its sign, tested against 0 (45_compare.md R150). Both readings of
`compareFlags` are this, by `compareFlags_exact` and `compareFlags_wrapped`. -/
def CondRegs.ofSign (d : Int) : CondRegs :=
  { crn := decide (d < 0), crz := decide (d = 0), crp := decide (0 < d) }

/-- The three tests are exclusive and exhaustive (45_compare.md R151). -/
theorem CondRegs.ofSign_oneHot (d : Int) : (CondRegs.ofSign d).oneHot := by
  simp only [CondRegs.oneHot, CondRegs.ofSign, decide_eq_true_eq, decide_eq_false_iff_not]
  omega

theorem CondRegs.ofSign_crz_eq_iff (d e : Int) :
    (CondRegs.ofSign d).crz = (CondRegs.ofSign e).crz ↔ (d = 0 ↔ e = 0) :=
  decide_eq_decide

/-- The flags tell two differences apart exactly by their signs. -/
theorem CondRegs.ofSign_eq_iff (d e : Int) :
    CondRegs.ofSign d = CondRegs.ofSign e ↔ (d < 0 ↔ e < 0) ∧ (d = 0 ↔ e = 0) ∧ (0 < d ↔ 0 < e) := by
  simp only [CondRegs.ofSign, CondRegs.mk.injEq, decide_eq_decide]

/-- The sign of a difference orders its operands (the outcome table of 45_compare.md R152). -/
theorem CondRegs.ofSign_sub (x y : Int) :
    CondRegs.ofSign (x - y) = { crn := decide (x < y), crz := decide (x = y), crp := decide (y < x) } := by
  simp only [CondRegs.ofSign, sub_neg, sub_eq_zero, sub_pos]

/-! ### The two readings of the difference -/

theorem compareFlags_exact (a b : Word) :
    compareFlags .exact a b = CondRegs.ofSign (a.toInt - b.toInt) := rfl

/-- Testing bit 15 of the 16-bit difference, and the difference against 0, is testing its signed value. -/
theorem compareFlags_wrapped (a b : Word) :
    compareFlags .wrapped a b = CondRegs.ofSign (a - b).toInt := by
  have hmsb : (a - b).msb = decide ((a - b).toInt < 0) := BitVec.msb_eq_toInt
  have hzero : a - b = 0 ↔ (a - b).toInt = 0 := by rw [← BitVec.toInt_inj]; rfl
  simp only [compareFlags, CondRegs.ofSign, CondRegs.mk.injEq, hmsb, hzero, ne_eq, true_and]
  rw [← decide_not, ← Bool.decide_and, decide_eq_decide]
  omega

/-- Under either reading the flags are the sign of some integer. -/
theorem compareFlags_eq_ofSign (mode : CmpMode) (a b : Word) :
    ∃ d : Int, compareFlags mode a b = CondRegs.ofSign d := by
  cases mode with
  | exact => exact ⟨_, compareFlags_exact a b⟩
  | wrapped => exact ⟨_, compareFlags_wrapped a b⟩

theorem compareFlags_oneHot (mode : CmpMode) (a b : Word) : (compareFlags mode a b).oneHot := by
  obtain ⟨d, hd⟩ := compareFlags_eq_ofSign mode a b
  exact hd ▸ CondRegs.ofSign_oneHot d

/-- The 16-bit difference is the exact one where that fits in 16 signed bits, and 2^16 away from it, across
0, where it does not (45_compare.md R152). -/
theorem toInt_sub_cases (a b : Word) :
    (-32768 ≤ a.toInt - b.toInt ∧ a.toInt - b.toInt ≤ 32767 ∧ (a - b).toInt = a.toInt - b.toInt) ∨
    (32768 ≤ a.toInt - b.toInt ∧ (a - b).toInt = a.toInt - b.toInt - 65536 ∧ (a - b).toInt < 0) ∨
    (a.toInt - b.toInt < -32768 ∧ (a - b).toInt = a.toInt - b.toInt + 65536 ∧ 0 < (a - b).toInt) := by
  have ha := a.le_toInt
  have ha' := a.toInt_lt
  have hb := b.le_toInt
  have hb' := b.toInt_lt
  rw [BitVec.toInt_sub, Int.bmod_def]
  split <;> omega

/-! ### What CMP does -/

/-- CMP writes the flags of its two operands, and nothing else but the pc (45_compare.md R150). -/
theorem writesCond_cmp {s : State} {a b : RegCode} (u : Nibble) (ha : s.allows [a, b] = true) :
    WritesCond (.cmp u a b) s (compareFlags s.cfg.cmpMode (s.readReg a) (s.readReg b)) := by
  refine ⟨_, (exec_cmp s u a b).trans (withOperands_of_allows _ ha), rfl, rfl, fun r => ?_,
    fun _ => rfl, rfl⟩
  rw [State.readReg_advance, State.readReg_setCond]

/-- A completed instruction leaves CRN, CRZ, CRP as they were, or is a CMP and leaves the flags of a
comparison (10_state.md R27). -/
theorem exec_cr_cases {i : Instr} {s t : State} (h : exec i s = .next t) :
    t.cr = s.cr ∨ ∃ a b : Word, t.cr = compareFlags s.cfg.cmpMode a b := by
  obtain ⟨-, ⟨_, _, -, rfl⟩ | ⟨_, _, -, rfl⟩ | ⟨_, a, b, -, rfl⟩ | ⟨_, rfl⟩⟩ := exec_eq_next_cases h
  · exact .inl rfl
  · exact .inl rfl
  · exact .inr ⟨s.readReg a, s.readReg b, rfl⟩
  · exact .inl rfl

/-! ### The obligations -/

/-- Settles O46: a step keeps the condition registers or writes the flags of a comparison. -/
theorem stepKeepsOneConditionSet : Obligations.StepKeepsOneConditionSet := by
  intro s t hs h
  obtain hkept | ⟨a, b, hcmp⟩ := exec_cr_cases h
  · exact hkept ▸ hs
  · exact hcmp ▸ compareFlags_oneHot _ a b

/-- Settles O14: the sign of the exact difference is the signed order of the operands. -/
theorem cmpComparesSigned : Obligations.CmpComparesSigned := by
  intro s u s1 s2 ha hm
  have hcmp := writesCond_cmp u ha
  rw [hm, compareFlags_exact, CondRegs.ofSign_sub] at hcmp
  simpa only [BitVec.toInt_inj] using hcmp

/-- Settles O15: `r` is the 16-bit difference, whose sign the wrapped reading tests. -/
theorem cmpWrappedTestsDifferenceSign : Obligations.CmpWrappedTestsDifferenceSign := by
  intro s u s1 s2 ha hm
  have hcmp := writesCond_cmp u ha
  rw [hm, compareFlags_wrapped] at hcmp
  exact ⟨_, (ofInt_toInt_sub_toInt _ _).symm, hcmp⟩

/-- Settles O16: the wrapped difference is the exact one, or its sign is the opposite one. -/
theorem cmpReadingsAgreeExactly : Obligations.CmpReadingsAgreeExactly := by
  intro a b
  rw [compareFlags_exact, compareFlags_wrapped, CondRegs.ofSign_eq_iff, CondRegs.ofSign_crz_eq_iff]
  have hdiff := toInt_sub_cases a b
  omega

/-- Settles O17: CMP leaves the flags of a comparison, under either `CMP_MODE`. -/
theorem cmpSetsExactlyOneCondition : Obligations.CmpSetsExactlyOneCondition := by
  intro s u s1 s2 ha
  obtain ⟨t, hexec, hcr, -⟩ := writesCond_cmp u ha
  exact ⟨t, hexec, hcr ▸ compareFlags_oneHot _ _ _⟩

end Sys2Proof.Machine
end

section
/-! The rules of BRN, BRZ, BRP, JMP and the NOPs of opcode 1011 (46_branch.md R160 to R165): what each branch
tests, and that nothing but the pc moves. -/

namespace Sys2Proof.Machine

open Sys2Proof

/-! ### What each branch does -/

/-- BRN is taken if CRN is 1 (46_branch.md R161). -/
theorem onlyMovesPc_brn (s : State) (off : Byte) :
    OnlyMovesPc (.brn off) s (if s.cr.crn then s.branchDestination off else s.pc + 1) :=
  onlyMovesPc_of_branchIf (exec_brn s off)

/-- BRZ is taken if CRZ is 1 (46_branch.md R162). -/
theorem onlyMovesPc_brz (s : State) (off : Byte) :
    OnlyMovesPc (.brz off) s (if s.cr.crz then s.branchDestination off else s.pc + 1) :=
  onlyMovesPc_of_branchIf (exec_brz s off)

/-- BRP is taken if CRP is 1 (46_branch.md R163). -/
theorem onlyMovesPc_brp (s : State) (off : Byte) :
    OnlyMovesPc (.brp off) s (if s.cr.crp then s.branchDestination off else s.pc + 1) :=
  onlyMovesPc_of_branchIf (exec_brp s off)

/-- JMP is always taken (46_branch.md R164). -/
theorem onlyMovesPc_jmp (s : State) (off : Byte) : OnlyMovesPc (.jmp off) s (s.branchDestination off) := by
  have hjmp := onlyMovesPc_of_branchIf (exec_jmp s off)
  rwa [if_pos rfl] at hjmp

/-! ### The obligations -/

/-- Settles O18: the four branches are one operation, which differs in what it tests. -/
theorem branchesMoveOnlyThePc : Obligations.BranchesMoveOnlyThePc :=
  fun s off => ⟨onlyMovesPc_brn s off, onlyMovesPc_brz s off, onlyMovesPc_brp s off, onlyMovesPc_jmp s off⟩

/-- Settles O20: by the MODE table of opcode 1011 such a word is a NOP, and a NOP only advances the pc. -/
theorem branchWordsOfOtherModesOnlyAdvance : Obligations.BranchWordsOfOtherModesOnlyAdvance := by
  intro w s hop hbrn hbrz hbrp hjmp
  obtain ⟨-, -, -, -, hother⟩ := modeTableOfOpcode1011 w hop
  have hnop : (decodeWord w).isNop = true := hother hbrn hbrz hbrp hjmp
  exact onlyMovesPc_of_isNop hnop s

end Sys2Proof.Machine
end

section
/-! The rules of undefined instructions and undefined operands (47_undefined.md R170 to R175): what is refused,
by which name, and what completes. -/

namespace Sys2Proof

/-! ### Which instructions have register fields -/

/-- The twelve other bits of a UDI are no register field (47_undefined.md R170 to R173). -/
theorem Instr.regFields_of_isUdi {i : Instr} (hi : i.isUdi = true) : i.regFields = [] := by
  cases i
  case udi1100 | udi1101 | udi1110 | udi1111 => rfl
  all_goals cases hi

/-- An instruction that uses a register is of a defined opcode. -/
theorem Instr.isUdi_eq_false_of_mem {i : Instr} {r : RegCode} (hr : r ∈ i.regFields) : i.isUdi = false := by
  by_contra hi
  rw [Instr.regFields_of_isUdi (Bool.eq_true_of_not_eq_false hi)] at hr
  cases hr

theorem Instr.wellFormed_iff (i : Instr) :
    i.wellFormed = true ↔ i.isUdi = false ∧ i.regFields.all RegCode.isGpr = true := by
  rw [Instr.wellFormed, Bool.and_eq_true, Bool.not_eq_true']

end Sys2Proof

namespace Sys2Proof.Machine

open Sys2Proof

/-! ### The operand that is turned away -/

/-- With only usable operands before it, the first unusable one is the one named (log 24). -/
theorem firstUnusable_append_cons {m : UdoMode} {before : List RegCode} {r : RegCode} (after : List RegCode)
    (hbefore : before.all (RegCode.usable m) = true) (hr : RegCode.usable m r = false) :
    firstUnusable m (before ++ r :: after) = some r := by
  induction before with
  | nil => simp [firstUnusable, hr]
  | cons q before ih =>
    obtain ⟨hq, hrest⟩ : RegCode.usable m q = true ∧ before.all (RegCode.usable m) = true := by
      simpa using hbefore
    rw [List.cons_append, firstUnusable, if_pos hq, ih hrest]

/-- An instruction is refused by the name of its first unusable operand, before any effect. -/
theorem withOperands_append_cons {s : State} {before after : List RegCode} {r : RegCode} (f : State → State)
    (hbefore : s.allows before = true) (hr : RegCode.usable s.cfg.udoMode r = false) :
    withOperands (before ++ r :: after) s f = .refused (.undefinedOperand r.bits) := by
  rw [withOperands, firstUnusable_append_cons after hbefore hr]

/-- R0 to R11 have a meaning on every machine (10_state.md R20). -/
theorem RegCode.usable_of_isGpr {r : RegCode} (m : UdoMode) (hr : r.isGpr = true) :
    RegCode.usable m r = true := by
  cases m with
  | gpr => rfl
  | refuse => exact hr

theorem State.allows_of_all_isGpr {rs : List RegCode} (s : State) (hrs : rs.all RegCode.isGpr = true) :
    s.allows rs = true :=
  List.all_eq_true.2 fun r hr => RegCode.usable_of_isGpr _ (List.all_eq_true.1 hrs r hr)

/-! ### An instruction of a defined opcode -/

/-- An instruction of a defined opcode completes when the machine gives its register fields a meaning. -/
theorem exec_completes_of_allows {i : Instr} {s : State} (hi : i.isUdi = false)
    (ha : s.allows i.regFields = true) : ∃ t, exec i s = .next t := by
  obtain ⟨f, hf⟩ := exec_of_not_isUdi s hi
  exact ⟨f s, hf.trans (withOperands_of_allows f ha)⟩

/-! ### The obligations -/

/-- Settles O21: each of the four is a UDI, and a UDI is refused with its opcode. -/
theorem udiIsRefused : Obligations.UdiIsRefused :=
  fun _ s => ⟨exec_of_isUdi s rfl, exec_of_isUdi s rfl, exec_of_isUdi s rfl, exec_of_isUdi s rfl⟩

/-- Settles O22: an instruction with a register field is no UDI, so it is its effect behind the check of its
fields, which stops at the first undefined one. -/
theorem undefinedOperandIsRefused : Obligations.UndefinedOperandIsRefused := by
  intro i s before after n hm hfields hbefore
  have hi : i.isUdi = false := Instr.isUdi_eq_false_of_mem (r := .udo n) (by simp [hfields])
  have hudo : RegCode.usable s.cfg.udoMode (.udo n) = false := by rw [hm]; rfl
  obtain ⟨f, hf⟩ := exec_of_not_isUdi s hi
  rw [hf, hfields, withOperands_append_cons f (s.allows_of_all_isGpr hbefore) hudo, RegCode.bits]

/-- Settles O24: R0 to R11 have a meaning on every machine, so no register field is turned away. -/
theorem wellFormedInstructionCompletes : Obligations.WellFormedInstructionCompletes := by
  intro i s hwf
  obtain ⟨hi, hgpr⟩ := i.wellFormed_iff.1 hwf
  exact exec_completes_of_allows hi (s.allows_of_all_isGpr hgpr)

end Sys2Proof.Machine
end

section
/-! The rules of refusal, reset and launch (60_exceptions.md R180 to R194; 70_reset_and_hazards.md R200 to
R205): when an instruction completes, what the reset input leaves, when a run has ended, and where a program
stands. -/

namespace Sys2Proof.Machine

open Sys2Proof

/-! ### Completion and refusal -/

/-- With an operand that has no meaning, the check refuses an undefined operand among those it checks
(60_exceptions.md R183): it has no third answer. -/
theorem withOperands_of_not_allows {rs : List RegCode} {s : State} (f : State → State)
    (ha : s.allows rs = false) :
    ∃ n, RegCode.udo n ∈ rs ∧ withOperands rs s f = .refused (.undefinedOperand (RegCode.udo n).bits) := by
  cases h : withOperands rs s f with
  | next t =>
    obtain ⟨ha', -⟩ := withOperands_eq_next h
    rw [ha] at ha'
    cases ha'
  | fault r => cases r
  | refused q =>
    obtain ⟨-, n, hn, rfl⟩ := withOperands_eq_refused h
    exact ⟨n, hn, rfl⟩

/-- A UDI never completes (60_exceptions.md R180). -/
theorem isUdi_eq_false_of_exec {i : Instr} {s t : State} (h : exec i s = .next t) : i.isUdi = false := by
  by_contra hi
  rw [exec_of_isUdi s (Bool.eq_true_of_not_eq_false hi)] at h
  cases h

/-! ### The end of a run -/

theorem decodeWord_haltWord : decodeWord haltWord = .jmp 0xFF := by decide

/-- An OFFSET of -1 undoes the increment of the pc, past 0xFFFF too (decisions D1, D8). -/
theorem branchTarget_minus_one (pc : Word) : branchTarget true pc 0xFF = pc := by
  have hoff : extendOffset true 0xFF = -1 := by decide
  rw [branchTarget, hoff, add_neg_cancel_right]

theorem State.setPc_self (s : State) : s.setPc s.pc = s := rfl

/-- With signed offsets, the JMP to itself changes nothing (46_branch.md R164). -/
theorem exec_jmp_self {s : State} (hsigned : s.cfg.brOffsetSigned = true) : exec (.jmp 0xFF) s = .next s := by
  rw [exec_jmp, branchIf, if_pos rfl, hsigned, branchTarget_minus_one, State.setPc_self]

/-- A run goes nowhere from a state that steps to itself. -/
theorem run_of_step_self {M : Host.Core} {s : M.State} (h : M.step s = .next s) (k : Nat) :
    M.run k s = .next s := by
  induction k with
  | zero => rfl
  | succ k ih => rw [Host.Core.run, h]; exact ih

/-! ### Reset during an instruction -/

/-- The reset input asserted during an instruction leaves a state right after reset, over the memory before
that instruction or after it (60_exceptions.md R194). -/
theorem resetDuring_eq_resetWith (completed : Bool) (draw : CondRegs) (s : State) :
    ∃ m, resetDuring completed draw s = .resetWith s.cfg draw m ∧
      (m = s.mem ∨ ∃ t, step s = .next t ∧ m = t.mem) := by
  unfold resetDuring
  split
  · next t hstep => exact ⟨t.mem, rfl, .inr ⟨t, hstep, rfl⟩⟩
  · exact ⟨s.mem, rfl, .inl rfl⟩

/-! ### A program placed in memory -/

/-- Placing words leaves every location outside theirs alone; `b - a` is how far `b` is past the first. -/
theorem Memory.readWord_loadWords_outside {m : Memory} {a b : Word} {ws : List Word}
    (h : ws.length ≤ (b - a).toNat) :
    Memory.readWord (Memory.loadWords m a ws) b = Memory.readWord m b := by
  induction ws generalizing m a with
  | nil => rfl
  | cons w ws ih =>
    rw [List.length_cons] at h
    have hne : b ≠ a := by bv_omega
    have hrest : ws.length ≤ (b - (a + 1)).toNat := by bv_omega
    rw [Memory.loadWords, ih hrest, Memory.readWord_writeWord_other m w hne]

/-- Words placed from `a` up stand one a location, in order, as long as they do not come round again to the
first (70_reset_and_hazards.md R201). -/
theorem Memory.readWord_loadWords_placed {m : Memory} {a : Word} {ws : List Word} {k : Nat}
    (hlen : ws.length ≤ 65536) (hk : k < ws.length) :
    Memory.readWord (Memory.loadWords m a ws) (a + BitVec.ofNat 16 k) = ws[k] := by
  induction ws generalizing m a k with
  | nil => cases hk
  | cons w ws ih =>
    rw [List.length_cons] at hlen hk
    rw [Memory.loadWords]
    cases k with
    | zero =>
      have hfirst : ws.length ≤ (a - (a + 1)).toNat := by bv_omega
      rw [BitVec.add_zero, Memory.readWord_loadWords_outside hfirst, Memory.readWord_writeWord_same,
        List.getElem_cons_zero]
    | succ k =>
      have hnext : a + BitVec.ofNat 16 (k + 1) = a + 1 + BitVec.ofNat 16 k := by bv_omega
      rw [hnext, ih (by omega) (by omega), List.getElem_cons_succ]

/-! ### The obligations -/

/-- Settles O23: a UDI is refused by its opcode, and any other instruction is its effect behind the check of
its register fields, which either lets it complete or refuses one of them. -/
theorem execCompletesExactlyWhenDefined : Obligations.ExecCompletesExactlyWhenDefined := by
  intro i s
  refine ⟨⟨fun ⟨t, h⟩ => ?_, fun ⟨hi, ha⟩ => exec_completes_of_allows hi ha⟩, exec_of_isUdi s,
    fun hi ha => ?_⟩
  · obtain ⟨ha, -⟩ := exec_eq_next_cases h
    exact ⟨isUdi_eq_false_of_exec h, ha⟩
  · obtain ⟨f, hf⟩ := exec_of_not_isUdi s hi
    rw [hf]
    exact withOperands_of_not_allows f ha

/-- Settles O42: whether or not the instruction completed, the state is one right after reset. -/
theorem resetDuringInstructionClears : Obligations.ResetDuringInstructionClears := by
  intro completed draw s
  obtain ⟨m, hreset, hmem⟩ := resetDuring_eq_resetWith completed draw s
  rw [hreset]
  exact ⟨rfl, State.readReg_resetWith s.cfg draw m, rfl, rfl, hmem⟩

/-- Settles O40: the word at the pc is the JMP to itself, which is a step to the same state. -/
theorem endedRunNoLongerChanges : Obligations.EndedRunNoLongerChanges := by
  intro s hend hsigned
  have hfetch : s.fetchWord = haltWord := eq_of_beq hend
  have hstep : step s = .next s := by
    rw [step_of_fetchWord hfetch, decodeWord_haltWord, exec_jmp_self hsigned]
  exact ⟨hstep, run_of_step_self (M := core) hstep⟩

/-- Settles O43: the program is placed from location 0, which is also where the pc starts. -/
theorem launchPlacesProgramFromZero : Obligations.LaunchPlacesProgramFromZero := by
  intro cfg draw before ws hlen
  have hplaced : ∀ (k : Nat) (h : k < ws.length),
      Memory.readWord (State.launch cfg draw before ws).mem (BitVec.ofNat 16 k) = ws[k] := by
    intro k hk
    rw [← BitVec.zero_add (BitVec.ofNat 16 k)]
    exact Memory.readWord_loadWords_placed hlen hk
  refine ⟨hplaced, fun b hb => ?_, fun h => step_of_fetchWord (hplaced 0 h)⟩
  rw [← BitVec.sub_zero b] at hb
  exact Memory.readWord_loadWords_outside hb

end Sys2Proof.Machine
end
